-- ==== Sys2Proof/Word.lean ====
section
/-! DEFINITION. The word types of the block (R10, R20 of spec/10_state.md): everything is unsigned and
little-endian; a byte is the smallest addressable unit (R71, R75). -/

namespace Sys2Proof

/-- One byte of DMA-visible memory or of a register block. -/
abbrev Byte := BitVec 8

/-- A 32-bit word: the `status` and `control` words of a TRB, most registers (R55). -/
abbrev Word32 := BitVec 32

/-- A 64-bit word: the `param` word of a TRB, `CRCR`, `DCBAAP`, a DCBAA entry (R55). -/
abbrev Word64 := BitVec 64

/-- A physical address (R58, R73): the only address the block communicates to the controller. -/
abbrev Addr := BitVec 64

/-- The one-bit word of a Boolean. -/
def bit (b : Bool) : Word64 := if b then 1 else 0

end Sys2Proof
end

