-- ==== Sys2Proof/Syntax.lean ====
section
/-! DEFINITION. The operations and records of the block as syntax: one constructor of `Instr` per row of
spec/opcode_table.json. R5 of spec/00_scope.md reads "instruction" as an operation of the block or a
TRB record type; R123 of spec/30_encoding.md gives the operands. Operands whose declared width R306
makes an operation refuse when exceeded are naturals here, checked in WellFormed.lean and by the
meanings. -/

namespace Sys2Proof

/-- A TRB value: the three words of the 16-byte record (R20, R150). -/
structure Trb where
  /-- bytes 0 to 7 -/
  param : Word64
  /-- bytes 8 to 11 -/
  status : Word32
  /-- bytes 12 to 15 -/
  control : Word32
  deriving DecidableEq, Repr

/-- Everything of a record but its TYPE field, which is the constructor of `Instr` (R101, R102). -/
structure Rec where
  /-- bytes 0 to 7 -/
  param : Word64
  /-- bytes 8 to 11 -/
  status : Word32
  /-- `C`, control bit 0 -/
  cycle : Bool
  /-- control bits 9:1, the variant bits TC/ENT, ISP, NS, CH, IOC, IDT, 8:7, BEI/BSR/DC (R104) -/
  flags : BitVec 9
  /-- control bits 23:16, DIR, TRT, endpoint id (R104) -/
  mid : BitVec 8
  /-- `SLOT`, control bits 31:24 -/
  slot : BitVec 8
  deriving DecidableEq, Repr

/-- A Ring Buffer of the block: the Command Ring's, Transfer Ring `k`'s, the Event Ring's, or a bare
one (R23, R27, R29, R34, R190). -/
inductive RingId where
  | command
  | transfer (k : Nat)
  | event
  | bare (k : Nat)
  deriving DecidableEq, Repr

/-- A ring with a `cycle_state_ours` flag and a Link slot: the owners `skip_link` is for (R198). -/
inductive RingOwner where
  | command
  | transfer (k : Nat)
  deriving DecidableEq, Repr

/-- Where `TrbRing::new` keeps the Ring Buffer it makes: bare ring `k`, or the Event Ring, which is a
Ring Buffer with no Link slot (R245, R246, log 13). -/
inductive RingPlace where
  | bare (k : Nat)
  | event
  deriving DecidableEq, Repr

/-- What an accessor reads: a TRB value, or slot `i` of a ring (R150). -/
inductive TrbSrc where
  | value (t : Trb)
  | slot (r : RingId) (i : Nat)
  deriving DecidableEq, Repr

/-- What current-slot inspection reads (R195, R230): the slot at a ring's cursor, and of a Transfer Ring also
the slot at its dequeue cursor `D` and its flag `cso`. The opcode table has one row for all of it (log 38). -/
inductive Inspected where
  | slot (r : RingId)
  | dequeue (k : Nat)
  | flag (k : Nat)
  deriving DecidableEq, Repr

/-- The three register blocks (R40, R45, R52). -/
inductive Block where
  | cap
  | op
  | db
  deriving DecidableEq, Repr

/-- The storage word a Bitfield Register Accessor wraps (R140): `bytes` bytes of DMA-visible memory at
a physical address, or of a register block at a byte offset. -/
inductive WordRef where
  | dma (addr : Addr) (bytes : Nat)
  | mmio (block : Block) (off : Nat) (bytes : Nat)
  deriving DecidableEq, Repr

/-- The owner of a Pinned DMA allocation (R36): a bare Pinned buffer, a ring's memory, buffer `i` of
Transfer Ring `k`, the DCBAA. -/
inductive AllocRef where
  | pinned (k : Nat)
  | ring (r : RingId)
  | buffer (k i : Nat)
  | dcbaa
  deriving DecidableEq, Repr

/-- The instructions: 64 record types, 3 word formats, 61 operations (R5, R127). -/
inductive Instr where
  /-- RESERVED_0. Type code 0 (R108; rule R121). -/
  | reserved0 (r : Rec)
  /-- NORMAL. Type code 1 (R108; rule R152). -/
  | normal (r : Rec)
  /-- SETUP_STAGE. Type code 2 (R108; rule R154). -/
  | setupStage (r : Rec)
  /-- DATA_STAGE. Type code 3 (R108; rule R155). -/
  | dataStage (r : Rec)
  /-- STATUS_STAGE. Type code 4 (R108; rule R157). -/
  | statusStage (r : Rec)
  /-- ISOCH. Type code 5 (R108; rule R174). -/
  | isoch (r : Rec)
  /-- LINK. Type code 6 (R108; rule R153). -/
  | link (r : Rec)
  /-- EVENT_DATA. Type code 7 (R108; rule R174). -/
  | eventData (r : Rec)
  /-- NOOP_TRANSFER. Type code 8 (R108; rule R174). -/
  | noopTransfer (r : Rec)
  /-- ENABLE_SLOT_CMD. Type code 9 (R108; rule R161). -/
  | enableSlotCmd (r : Rec)
  /-- DISABLE_SLOT_CMD. Type code 10 (R108; rule R163). -/
  | disableSlotCmd (r : Rec)
  /-- ADDRESS_DEVICE_CMD. Type code 11 (R108; rule R162). -/
  | addressDeviceCmd (r : Rec)
  /-- CONFIGURE_ENDPOINT_CMD. Type code 12 (R108; rule R163). -/
  | configureEndpointCmd (r : Rec)
  /-- EVALUATE_CONTEXT_CMD. Type code 13 (R108; rule R163). -/
  | evaluateContextCmd (r : Rec)
  /-- RESET_ENDPOINT_CMD. Type code 14 (R108; rule R163). -/
  | resetEndpointCmd (r : Rec)
  /-- STOP_ENDPOINT_CMD. Type code 15 (R108; rule R163). -/
  | stopEndpointCmd (r : Rec)
  /-- SET_TR_DEQUEUE_POINTER_CMD. Type code 16 (R108; rule R163). -/
  | setTrDequeuePointerCmd (r : Rec)
  /-- RESET_DEVICE_CMD. Type code 17 (R108; rule R163). -/
  | resetDeviceCmd (r : Rec)
  /-- FORCE_EVENT_CMD. Type code 18 (R108; rule R163). -/
  | forceEventCmd (r : Rec)
  /-- NEGOTIATE_BANDWIDTH_CMD. Type code 19 (R108; rule R163). -/
  | negotiateBandwidthCmd (r : Rec)
  /-- SET_LATENCY_TOLERANCE_VALUE_CMD. Type code 20 (R108; rule R163). -/
  | setLatencyToleranceValueCmd (r : Rec)
  /-- GET_PORT_BANDWIDTH_CMD. Type code 21 (R108; rule R163). -/
  | getPortBandwidthCmd (r : Rec)
  /-- FORCE_HEADER_CMD. Type code 22 (R108; rule R163). -/
  | forceHeaderCmd (r : Rec)
  /-- NOOP_CMD. Type code 23 (R108; rule R160). -/
  | noopCmd (r : Rec)
  /-- GET_EXTENDED_PROPERTY_CMD. Type code 24 (R108; rule R163). -/
  | getExtendedPropertyCmd (r : Rec)
  /-- SET_EXTENDED_PROPERTY_CMD. Type code 25 (R108; rule R163). -/
  | setExtendedPropertyCmd (r : Rec)
  /-- RESERVED_26. Type code 26 (R108; rule R121). -/
  | reserved26 (r : Rec)
  /-- RESERVED_27. Type code 27 (R108; rule R121). -/
  | reserved27 (r : Rec)
  /-- RESERVED_28. Type code 28 (R108; rule R121). -/
  | reserved28 (r : Rec)
  /-- RESERVED_29. Type code 29 (R108; rule R121). -/
  | reserved29 (r : Rec)
  /-- RESERVED_30. Type code 30 (R108; rule R121). -/
  | reserved30 (r : Rec)
  /-- RESERVED_31. Type code 31 (R108; rule R121). -/
  | reserved31 (r : Rec)
  /-- TRANSFER_EVENT. Type code 32 (R108; rule R171). -/
  | transferEvent (r : Rec)
  /-- COMMAND_COMPLETION_EVENT. Type code 33 (R108; rule R172). -/
  | commandCompletionEvent (r : Rec)
  /-- PORT_STATUS_CHANGE_EVENT. Type code 34 (R108; rule R173). -/
  | portStatusChangeEvent (r : Rec)
  /-- BANDWIDTH_REQUEST_EVENT. Type code 35 (R108; rule R173). -/
  | bandwidthRequestEvent (r : Rec)
  /-- DOORBELL_EVENT. Type code 36 (R108; rule R173). -/
  | doorbellEvent (r : Rec)
  /-- HOST_CONTROLLER_EVENT. Type code 37 (R108; rule R173). -/
  | hostControllerEvent (r : Rec)
  /-- DEVICE_NOTIFICATION_EVENT. Type code 38 (R108; rule R173). -/
  | deviceNotificationEvent (r : Rec)
  /-- MFINDEX_WRAP_EVENT. Type code 39 (R108; rule R173). -/
  | mfindexWrapEvent (r : Rec)
  /-- RESERVED_40. Type code 40 (R108; rule R121). -/
  | reserved40 (r : Rec)
  /-- RESERVED_41. Type code 41 (R108; rule R121). -/
  | reserved41 (r : Rec)
  /-- RESERVED_42. Type code 42 (R108; rule R121). -/
  | reserved42 (r : Rec)
  /-- RESERVED_43. Type code 43 (R108; rule R121). -/
  | reserved43 (r : Rec)
  /-- RESERVED_44. Type code 44 (R108; rule R121). -/
  | reserved44 (r : Rec)
  /-- RESERVED_45. Type code 45 (R108; rule R121). -/
  | reserved45 (r : Rec)
  /-- RESERVED_46. Type code 46 (R108; rule R121). -/
  | reserved46 (r : Rec)
  /-- RESERVED_47. Type code 47 (R108; rule R121). -/
  | reserved47 (r : Rec)
  /-- VENDOR_48. Type code 48 (R108; rule R121). -/
  | vendor48 (r : Rec)
  /-- VENDOR_49. Type code 49 (R108; rule R121). -/
  | vendor49 (r : Rec)
  /-- VENDOR_50. Type code 50 (R108; rule R121). -/
  | vendor50 (r : Rec)
  /-- VENDOR_51. Type code 51 (R108; rule R121). -/
  | vendor51 (r : Rec)
  /-- VENDOR_52. Type code 52 (R108; rule R121). -/
  | vendor52 (r : Rec)
  /-- VENDOR_53. Type code 53 (R108; rule R121). -/
  | vendor53 (r : Rec)
  /-- VENDOR_54. Type code 54 (R108; rule R121). -/
  | vendor54 (r : Rec)
  /-- VENDOR_55. Type code 55 (R108; rule R121). -/
  | vendor55 (r : Rec)
  /-- VENDOR_56. Type code 56 (R108; rule R121). -/
  | vendor56 (r : Rec)
  /-- VENDOR_57. Type code 57 (R108; rule R121). -/
  | vendor57 (r : Rec)
  /-- VENDOR_58. Type code 58 (R108; rule R121). -/
  | vendor58 (r : Rec)
  /-- VENDOR_59. Type code 59 (R108; rule R121). -/
  | vendor59 (r : Rec)
  /-- VENDOR_60. Type code 60 (R108; rule R121). -/
  | vendor60 (r : Rec)
  /-- VENDOR_61. Type code 61 (R108; rule R121). -/
  | vendor61 (r : Rec)
  /-- VENDOR_62. Type code 62 (R108; rule R121). -/
  | vendor62 (r : Rec)
  /-- VENDOR_63. Type code 63 (R108; rule R121). -/
  | vendor63 (r : Rec)
  /-- DBWORD. The 32-bit word of a Doorbell write (R116), at Doorbell register `reg` (R268; the word does not hold the index, log 16). -/
  | dbword (reg : Nat) (target : BitVec 8) (stream : BitVec 16)
  /-- CRCRWORD. The 64-bit word of a command-ring-control write (R117): bits 63:6 of the ring base, bits 5:1 zero, bit 0 one. -/
  | crcrword (base : BitVec 58)
  /-- DCBAAENT. A 64-bit DCBAA entry (R119), written as entry `index` (R297; the word does not hold the index, log 16). -/
  | dcbaaent (index : Nat) (addr : Word64)
  /-- read. R141. -/
  | read (w : WordRef)
  /-- write. R142. -/
  | write (w : WordRef) (v : Word64)
  /-- read_bits. R143. -/
  | readBits (w : WordRef) (shift width : Nat)
  /-- write_bits. R144. -/
  | writeBits (w : WordRef) (shift width : Nat) (value : Word64)
  /-- NormalTrb::new. R152. -/
  | normalTrbNew (buf len : Nat)
  /-- TrbBase::trb_link. R153. -/
  | trbLink (r : RingId)
  /-- SetupStageTrb::new. R154. -/
  | setupStageTrbNew (bmRequestType bRequest wValue wIndex wLength : Nat)
  /-- DataStageTrb::new_in. R155. -/
  | dataStageTrbNewIn (buf len : Nat)
  /-- DataStageTrb::new_out. R156. -/
  | dataStageTrbNewOut (buf len : Nat)
  /-- StatusStageTrb::new_in. R157. -/
  | statusStageTrbNewIn
  /-- StatusStageTrb::new_out. R158. -/
  | statusStageTrbNewOut
  /-- CommandTrb::new. R159 (and R160 to R163). -/
  | commandTrbNew (type slotId param : Nat)
  /-- cycle_bit_state. R164. -/
  | cycleBitState (t : TrbSrc)
  /-- set_cycle_state. R165. -/
  | setCycleState (r : RingId) (i : Nat) (b : Bool)
  /-- trb_type. R166. -/
  | trbType (t : TrbSrc)
  /-- slot_id. R167. -/
  | slotId (t : TrbSrc)
  /-- data. R168. -/
  | data (t : TrbSrc)
  /-- toggle_cycle. R169. -/
  | toggleCycle (t : TrbSrc)
  /-- completion_code. R170. -/
  | completionCode (t : TrbSrc)
  /-- transfer_length. R170. -/
  | transferLength (t : TrbSrc)
  /-- classify. R174. -/
  | classify (t : TrbSrc)
  /-- store. R176. -/
  | store (r : RingId) (i : Nat) (t : Trb)
  /-- load. R177. -/
  | load (r : RingId) (i : Nat)
  /-- TrbRing::new. R190; the new ring is kept at `place` (log 13, log 14). -/
  | trbRingNew (place : RingPlace)
  /-- slot. R191. -/
  | slot (r : RingId) (i : Nat)
  /-- slot_addr. R191. -/
  | slotAddr (r : RingId) (i : Nat)
  /-- advance_index. R192. -/
  | advanceIndex (r : RingId) (newCycle : Bool)
  /-- advance_index_notoggle. R193. -/
  | advanceIndexNotoggle (r : RingId) (cycleOurs : Bool)
  /-- TrbRing::reset. R194, on bare ring `k` (R212 and R361 keep it from the Command Ring, log 26). -/
  | trbRingReset (k : Nat)
  /-- current. R195, and R230 for a Transfer Ring (log 38). -/
  | current (c : Inspected)
  /-- TrbRing::phys_addr. R196. -/
  | trbRingPhysAddr (r : RingId)
  /-- set_link_trb. R197. -/
  | setLinkTrb (r : RingId)
  /-- skip_link. R198. -/
  | skipLink (o : RingOwner)
  /-- CommandRing::new. R211. -/
  | commandRingNew
  /-- CommandRing::reset. R212. -/
  | commandRingReset
  /-- CommandRing::phys_addr. R213. -/
  | commandRingPhysAddr
  /-- crcr_value. R213. -/
  | crcrValue
  /-- push. R214. -/
  | push (t : Trb)
  /-- TransferRing::new. R226; the new ring is Transfer Ring `k` (log 14). -/
  | transferRingNew (k : Nat)
  /-- fill_ring. R227. -/
  | fillRing (k : Nat)
  /-- dequeue_trb. R228. -/
  | dequeueTrb (k : Nat) (expected : Addr)
  /-- EventRing::reset. R246. -/
  | eventRingReset
  /-- has_event. R247. -/
  | hasEvent
  /-- pop. R248. -/
  | pop
  /-- max_device_slots. R256. -/
  | maxDeviceSlots
  /-- max_interrupters. R257. -/
  | maxInterrupters
  /-- max_ports. R258. -/
  | maxPorts
  /-- max_scratchpad_buffers. R259. -/
  | maxScratchpadBuffers
  /-- is_halted. R261. -/
  | isHalted
  /-- reset_xhc. R263. -/
  | resetXhc
  /-- start_xhc. R264. -/
  | startXhc
  /-- set_dcbaa_ptr. R265. -/
  | setDcbaaPtr (addr : Addr)
  /-- set_cmd_ring_ctrl. R266. -/
  | setCmdRingCtrl (value : Word64)
  /-- set_num_device_slots. R267. -/
  | setNumDeviceSlots (n : BitVec 8)
  /-- notify. R268. -/
  | notify (reg target stream : Nat)
  /-- Pinned::new. R290; the new buffer is bare Pinned buffer `k` (log 14). -/
  | pinnedNew (k size align : Nat) (shared : Bool)
  /-- Pinned::phys_addr. R291. -/
  | pinnedPhysAddr (a : AllocRef)
  /-- get_unchecked_mut. R294. -/
  | getUncheckedMut (a : AllocRef)
  /-- Dcbaa::new. R297. -/
  | dcbaaNew
  /-- Dcbaa::set_entry. R297. -/
  | dcbaaSetEntry (i : Nat) (addr : Word64)
  /-- Dcbaa::entry. R297. -/
  | dcbaaEntry (i : Nat)
  deriving DecidableEq, Repr

end Sys2Proof
end

