-- ==== Sys2Proof/Config.lean ====
section
/-! DEFINITION. What an implementation fixes (R9 of spec/00_scope.md), the configuration record, and the
free values: constants with no body, so that no proof can rest on what they are. -/

namespace Sys2Proof

namespace Config

/-- `N`, slots in a Ring Buffer (R9, R23). -/
def ringLen : Nat := 16
/-- `USABLE = N - 1` (R9, R25). -/
def usable : Nat := 15
/-- `TRB_SIZE`, bytes (R9, R20). -/
def trbSize : Nat := 16
/-- Bytes of a Ring Buffer (R23). -/
def ringBytes : Nat := 256
/-- `BUF_SIZE` and `BUF_ALIGN` of a Transfer Ring data buffer (R9, R32). -/
def bufSize : Nat := 4096
/-- `PAGE`, the alignment of everything shared with the controller (R9, R293). -/
def page : Nat := 4096
/-- `FILL_MARGIN` (R9, R227, R363). -/
def fillMargin : Nat := 3
/-- `DCBAA_ENTRIES` (R9, R35). -/
def dcbaaEntries : Nat := 256
/-- Bytes of the DCBAA (R35, R297). -/
def dcbaaBytes : Nat := 2048
/-- `DCBAA_ALIGN` (R9). -/
def dcbaaAlign : Nat := 64

end Config

/-- A bit field of a word: its lowest bit and its width in bits (R143, R148). -/
structure Span where
  shift : Nat
  width : Nat
  deriving DecidableEq, Repr

/-- `Layout` (R9, D1 to D3): every number the spec supplies where the source gives none (R3): the byte offsets
of the registers, the positions of their fields, the positions of the variant bits of a record and of the
fields of its status word, and the type codes. The numbers the source itself gives (the cycle bit, TC, TYPE and
SLOT, the codes 1 and 6, the doorbell word, RCS) are no part of it, nor is what the controller's contract of R330 to
R337 says of a value it reads. -/
structure Layout where
  /-- byte offsets of the Capability registers (R41 to R44) -/
  caplength : Nat
  capReserved : Nat
  hciversion : Nat
  hcsparams1 : Nat
  hcsparams2 : Nat
  hcsparams3 : Nat
  hccparams1 : Nat
  dboff : Nat
  rtsoff : Nat
  hccparams2 : Nat
  /-- byte offsets of the Operational registers (R46 to R51) -/
  usbcmd : Nat
  usbsts : Nat
  pagesize : Nat
  dnctrl : Nat
  crcr : Nat
  dcbaap : Nat
  config : Nat
  /-- where the port register sets begin, and the bytes of one (R51) -/
  ports : Nat
  portBytes : Nat
  /-- bytes from one Doorbell register to the next, and the bytes of the Doorbell block (R52, R90) -/
  doorbellStride : Nat
  doorbellBytes : Nat
  /-- the Doorbell register and the target that ring the Command Ring (R52, R269) -/
  commandDoorbell : Nat
  commandTarget : BitVec 8
  /-- the least value of `CAPLENGTH`, the bytes of the Capability registers (R90), and the alignment of the Operational
  base, of which `MMIO_BASE` and `CAPLENGTH` are multiples (R76, D35) -/
  capBytes : Nat
  capAlign : Nat
  /-- the lowest bit of the block offset in `DBOFF` (R44) -/
  doorbellOffset : Nat
  /-- `USBCMD.R/S`, `USBCMD.HCRST` (R46) and `USBSTS.HCH` (R47), bit positions -/
  runStop : Nat
  hcReset : Nat
  halted : Nat
  /-- the lowest bit of the pointer in `CRCR` (R48) -/
  crcrPointer : Nat
  /-- the fields of R42, R43 and R50 -/
  maxSlots : Span
  maxIntrs : Span
  maxPorts : Span
  scratchpadHi : Span
  scratchpadLo : Span
  maxSlotsEn : Span
  /-- variant bits of a control word (R104); the block writes `ent`, `ns`, `ch` and `bei` (which is BSR and DC in two
  commands) always 0 -/
  ent : Nat
  isp : Nat
  ns : Nat
  ch : Nat
  ioc : Nat
  idt : Nat
  bei : Nat
  dir : Nat
  /-- TRT and the endpoint id in a control word (R104, R115) -/
  trt : Span
  endpoint : Span
  /-- the fields of a status word (R105); the block writes TD Size and Interrupter Target always 0 -/
  transferLength : Span
  tdSize : Span
  interrupterTarget : Span
  eventLength : Span
  completionCode : Span
  /-- the completion codes Success and Short Packet (R115) -/
  success : BitVec 8
  shortPacket : BitVec 8
  /-- the port id in the `param` of a Port Status Change Event (R115) -/
  portId : Span
  /-- the setup packet in the `param` of a Setup Stage TRB, and its length in bytes (R109, R111) -/
  setupRequestType : Span
  setupRequest : Span
  setupValue : Span
  setupIndex : Span
  setupLength : Span
  setupBytes : Nat
  /-- the type code of each record type, in the order of the table of R108 -/
  typeCodes : List (BitVec 6)
  deriving DecidableEq, Repr

/-- The type code of record type number `kind` of the table of R108. -/
def Layout.codeOf (l : Layout) (kind : BitVec 6) : BitVec 6 := l.typeCodes.getD kind.toNat kind

/-- The record type that a type code stands for. -/
def Layout.kindOf (l : Layout) (code : BitVec 6) : BitVec 6 := BitVec.ofNat 6 (l.typeCodes.idxOf code)

/-- The values the block takes (R9): the layout of R41 to R52, R76, R90, R104, R105, R108, R109, R111 and R115. -/
def Layout.standard : Layout where
  caplength := 0x00
  capReserved := 0x01
  hciversion := 0x02
  hcsparams1 := 0x04
  hcsparams2 := 0x08
  hcsparams3 := 0x0C
  hccparams1 := 0x10
  dboff := 0x14
  rtsoff := 0x18
  hccparams2 := 0x1C
  usbcmd := 0x00
  usbsts := 0x04
  pagesize := 0x08
  dnctrl := 0x14
  crcr := 0x18
  dcbaap := 0x30
  config := 0x38
  ports := 0x400
  portBytes := 16
  doorbellStride := 4
  doorbellBytes := 1024
  commandDoorbell := 0
  commandTarget := 0
  capBytes := 0x20
  capAlign := 8
  doorbellOffset := 2
  runStop := 0
  hcReset := 1
  halted := 0
  crcrPointer := 6
  maxSlots := { shift := 0, width := 8 }
  maxIntrs := { shift := 8, width := 11 }
  maxPorts := { shift := 24, width := 8 }
  scratchpadHi := { shift := 21, width := 5 }
  scratchpadLo := { shift := 27, width := 5 }
  maxSlotsEn := { shift := 0, width := 8 }
  ent := 1
  isp := 2
  ns := 3
  ch := 4
  ioc := 5
  idt := 6
  bei := 9
  dir := 16
  trt := { shift := 16, width := 2 }
  endpoint := { shift := 16, width := 5 }
  transferLength := { shift := 0, width := 17 }
  tdSize := { shift := 17, width := 5 }
  interrupterTarget := { shift := 22, width := 10 }
  eventLength := { shift := 0, width := 24 }
  completionCode := { shift := 24, width := 8 }
  success := 1
  shortPacket := 13
  portId := { shift := 24, width := 8 }
  setupRequestType := { shift := 0, width := 8 }
  setupRequest := { shift := 8, width := 8 }
  setupValue := { shift := 16, width := 16 }
  setupIndex := { shift := 32, width := 16 }
  setupLength := { shift := 48, width := 16 }
  setupBytes := 8
  typeCodes := (List.range 64).map (BitVec.ofNat 6)

/-- Which of the groups of R108 a type code lies in. The rules that name these ranges (R115, R121, R159, R174) and
the codes 1 and 6 (R108, "source §4.2") are no part of the layout. -/
def codeGroup (code : BitVec 6) : Nat :=
  let n := code.toNat
  if n = 1 then 1
  else if n = 6 then 2
  else if 2 ≤ n ∧ n ≤ 8 then 3
  else if 9 ≤ n ∧ n ≤ 25 then 4
  else if 32 ≤ n ∧ n ≤ 39 then 5
  else if 48 ≤ n then 6
  else 7

/-- The type codes of a layout: one for each record type, no code twice, each in its group. -/
def Layout.codesOk (l : Layout) : Bool :=
  decide (l.typeCodes.length = 64) && decide l.typeCodes.Nodup &&
    (List.range 64).all fun i => codeGroup (l.codeOf (BitVec.ofNat 6 i)) == codeGroup (BitVec.ofNat 6 i)

/-- The configuration record of R9: the parameters the spec leaves OPEN or gives an OPEN alternative.
It is held in the state, and no step changes it, so a statement about every state covers every
value of every parameter. -/
structure Params where
  /-- `Layout` (D1 to D3, log 25) -/
  layout : Layout
  /-- `TR_TRANSFER_LEN` (D7); a value above 4096 is refused by `TransferRing::new` (R226, R306) -/
  trTransferLen : Nat
  /-- `MMIO_BASE` (D35) -/
  mmioBase : Addr
  /-- `SPLIT64`: 64-bit accesses are two 4-byte accesses, low word first (R79, R91, D10) -/
  split64 : Bool
  /-- whether `DATA_STAGE_INT` holds IOC (D6) -/
  dataIoc : Bool
  /-- whether `DATA_STAGE_INT` holds ISP (D6) -/
  dataIsp : Bool
  /-- whether `STATUS_STAGE_INT` holds IOC (D6) -/
  statusIoc : Bool
  /-- `NUM_DOORBELLS`, 1 to 256 (D27) -/
  numDoorbells : Nat
  deriving DecidableEq, Repr

/-- A ring the controller knows: the Command Ring, or an endpoint's Transfer Ring by its place in the
controller's own list (R330, R336). -/
inductive RingSel where
  | command
  | endpoint (k : Nat)
  deriving DecidableEq, Repr

/-- The controller's consumer pointer and consumer cycle state of one ring (R33, R330). -/
structure HcRing where
  /-- consumer pointer: the physical address of the next record -/
  p : Addr
  /-- CCS, the consumer cycle state -/
  ccs : Bool
  deriving DecidableEq, Repr, Inhabited

/-- A Transfer Ring as the controller knows it: endpoint `endpoint` of device slot `slot` (R332, R336). -/
structure HcEndpoint where
  slot : BitVec 8
  endpoint : BitVec 5
  ring : HcRing
  deriving DecidableEq, Repr

/-- A transfer TRB that the controller has fetched and not yet executed, "a Normal TRB it has fetched" (R295, R332;
log 46). -/
structure HeldTrb where
  /-- the place in the controller's list of the endpoint whose pointer still stands on the slot; none once that
  endpoint has been given another ring -/
  owner : Option Nat
  slot : BitVec 8
  endpoint : BitVec 5
  /-- the physical address of the slot -/
  addr : Addr
  trb : Trb
  deriving DecidableEq, Repr

/-- The controller's hidden state (R33, R330). -/
structure HcHidden where
  /-- the Command Ring -/
  cmd : HcRing
  /-- the Transfer Rings it knows -/
  endpoints : List HcEndpoint
  /-- the transfer TRBs fetched and not yet executed (R295) -/
  held : List HeldTrb
  /-- the rings with a pending doorbell, a set: no entry twice -/
  pending : List RingSel
  /-- events waiting to be posted, oldest first; bit 0 of `control` is set when one is posted -/
  unposted : List Trb
  /-- Event Ring producer index -/
  q : Fin 16
  /-- Event Ring producer cycle state -/
  pcs : Bool
  /-- model's own: the addresses the controller has been given, or has read from a record it consumed, since its last
  completed reset; it may still hold them (R295, R346, R368; log 49) -/
  known : List Addr
  deriving DecidableEq, Repr, Inhabited

/-- The free value number `n`: what the model leaves open as a word of bits (log 4). -/
opaque Config.freeWord : Nat → Word64

/-- The free hidden state number `n`: what a controller reset leaves of the controller's hidden state
is unspecified (R344, log 27). -/
opaque Config.freeHidden : Nat → HcHidden

end Sys2Proof
end

