-- ==== Sys2Proof/WellFormed.lean ====
section
/-! DEFINITION. Which terms of `Instr` are well formed: every operand lies in the width or range that the
spec declares for it. These are the operands R306 of spec/60_exceptions.md refuses when exceeded; the
checks that raise a fatal (a slot index, a bit range) are run-time checks of the meanings (R301). -/

namespace Sys2Proof

/-- `n` is an unsigned operand of `w` bits. -/
abbrev fits (w n : Nat) : Bool := decide (n < 2 ^ w)

/-- A word is accessed in 1, 2, 4 or 8 bytes (R11), at a multiple of its size (R77). -/
def WordRef.wellFormed : WordRef → Bool
  | .dma a n => (n == 1 || n == 2 || n == 4 || n == 8) && a.toNat % n == 0
  | .mmio _ off n => (n == 1 || n == 2 || n == 4 || n == 8) && off % n == 0

/-- A TRB that `CommandTrb::new` builds, the operand of `push` (R159, R214): type 9 to 25, slot id, and every other bit
of `status` and `control` 0 (R114). -/
def Trb.isCommand (t : Trb) : Bool :=
  let type := (t.control.extractLsb' 10 6).toNat
  decide (9 ≤ type) && decide (type ≤ 25) && t.status == 0 && t.control &&& 0x00FF03FF == 0

/-- Operands within their declared widths and ranges (R123 of spec/30_encoding.md, R306). -/
def Instr.wellFormed : Instr → Bool
  | .dbword reg _ _ => decide (reg < 256)
  | .dcbaaent i _ => decide (i < Config.dcbaaEntries)
  | .read w => w.wellFormed
  | .write w _ => w.wellFormed
  | .readBits w _ _ => w.wellFormed
  | .writeBits w _ _ _ => w.wellFormed
  | .normalTrbNew buf len => fits 64 buf && fits 17 len
  | .setupStageTrbNew bm br wv wi wl => fits 8 bm && fits 8 br && fits 16 wv && fits 16 wi && fits 16 wl
  | .dataStageTrbNewIn buf len => fits 64 buf && fits 17 len
  | .dataStageTrbNewOut buf len => fits 64 buf && fits 17 len
  | .commandTrbNew ty sl param => decide (9 ≤ ty) && decide (ty ≤ 25) && fits 8 sl && fits 64 param
  | .notify reg target stream => decide (reg < 256) && fits 8 target && fits 16 stream
  | .pinnedNew _ size align _ => decide (0 < size) && decide (0 < align)
  | .dcbaaSetEntry i _ => decide (i < Config.dcbaaEntries)
  | .dcbaaEntry i => decide (i < Config.dcbaaEntries)
  | .push t => t.isCommand
  -- every other operand's type is exactly its declared range
  | .reserved0 _ => true
  | .normal _ => true
  | .setupStage _ => true
  | .dataStage _ => true
  | .statusStage _ => true
  | .isoch _ => true
  | .link _ => true
  | .eventData _ => true
  | .noopTransfer _ => true
  | .enableSlotCmd _ => true
  | .disableSlotCmd _ => true
  | .addressDeviceCmd _ => true
  | .configureEndpointCmd _ => true
  | .evaluateContextCmd _ => true
  | .resetEndpointCmd _ => true
  | .stopEndpointCmd _ => true
  | .setTrDequeuePointerCmd _ => true
  | .resetDeviceCmd _ => true
  | .forceEventCmd _ => true
  | .negotiateBandwidthCmd _ => true
  | .setLatencyToleranceValueCmd _ => true
  | .getPortBandwidthCmd _ => true
  | .forceHeaderCmd _ => true
  | .noopCmd _ => true
  | .getExtendedPropertyCmd _ => true
  | .setExtendedPropertyCmd _ => true
  | .reserved26 _ => true
  | .reserved27 _ => true
  | .reserved28 _ => true
  | .reserved29 _ => true
  | .reserved30 _ => true
  | .reserved31 _ => true
  | .transferEvent _ => true
  | .commandCompletionEvent _ => true
  | .portStatusChangeEvent _ => true
  | .bandwidthRequestEvent _ => true
  | .doorbellEvent _ => true
  | .hostControllerEvent _ => true
  | .deviceNotificationEvent _ => true
  | .mfindexWrapEvent _ => true
  | .reserved40 _ => true
  | .reserved41 _ => true
  | .reserved42 _ => true
  | .reserved43 _ => true
  | .reserved44 _ => true
  | .reserved45 _ => true
  | .reserved46 _ => true
  | .reserved47 _ => true
  | .vendor48 _ => true
  | .vendor49 _ => true
  | .vendor50 _ => true
  | .vendor51 _ => true
  | .vendor52 _ => true
  | .vendor53 _ => true
  | .vendor54 _ => true
  | .vendor55 _ => true
  | .vendor56 _ => true
  | .vendor57 _ => true
  | .vendor58 _ => true
  | .vendor59 _ => true
  | .vendor60 _ => true
  | .vendor61 _ => true
  | .vendor62 _ => true
  | .vendor63 _ => true
  | .crcrword _ => true
  | .trbLink _ => true
  | .statusStageTrbNewIn => true
  | .statusStageTrbNewOut => true
  | .cycleBitState _ => true
  | .setCycleState _ _ _ => true
  | .trbType _ => true
  | .slotId _ => true
  | .data _ => true
  | .toggleCycle _ => true
  | .completionCode _ => true
  | .transferLength _ => true
  | .classify _ => true
  | .store _ _ _ => true
  | .load _ _ => true
  | .trbRingNew _ => true
  | .slot _ _ => true
  | .slotAddr _ _ => true
  | .advanceIndex _ _ => true
  | .advanceIndexNotoggle _ _ => true
  | .trbRingReset _ => true
  | .current _ => true
  | .trbRingPhysAddr _ => true
  | .setLinkTrb _ => true
  | .skipLink _ => true
  | .commandRingNew => true
  | .commandRingReset => true
  | .commandRingPhysAddr => true
  | .crcrValue => true
  | .transferRingNew _ => true
  | .fillRing _ => true
  | .dequeueTrb _ _ => true
  | .eventRingReset => true
  | .hasEvent => true
  | .pop => true
  | .maxDeviceSlots => true
  | .maxInterrupters => true
  | .maxPorts => true
  | .maxScratchpadBuffers => true
  | .isHalted => true
  | .resetXhc => true
  | .startXhc => true
  | .setDcbaaPtr _ => true
  | .setCmdRingCtrl _ => true
  | .setNumDeviceSlots _ => true
  | .pinnedPhysAddr _ => true
  | .getUncheckedMut _ => true
  | .dcbaaNew => true

end Sys2Proof
end

