-- ==== Sys2Proof/Decode.lean ====
section
/-! DEFINITION. The binary formats of spec/30_encoding.md: the 16-byte TRB record (R101 to R103, R108),
the doorbell word (R116), the command-ring-control word (R117) and the DCBAA entry (R119); a decoder
that is total on any bytes and rejects by name, and the encoder of the same formats. The operations of
the block have no bit pattern (R127): they are not decoded from bytes. -/

namespace Sys2Proof

/-! ### Little-endian bytes (R74, R101) -/

/-- The `n` low bytes of a word, lowest first. -/
def bytesOf (n : Nat) (v : Word64) : List Byte :=
  (List.range n).map fun i => v.extractLsb' (8 * i) 8

/-- The little-endian value of a list of bytes. -/
def wordOf : List Byte → Word64
  | [] => 0
  | b :: bs => (wordOf bs <<< 8) ||| b.setWidth 64

/-! ### The control word (R102, R104) -/

/-- `TYPE`, control bits 15:10: the block's opcode (R103). -/
def typeField (control : Word32) : BitVec 6 := control.extractLsb' 10 6

/-- Everything else of a record, taken out of its three words. -/
def recOf (param : Word64) (status control : Word32) : Rec where
  param := param
  status := status
  cycle := control.getLsbD 0
  flags := control.extractLsb' 1 9
  mid := control.extractLsb' 16 8
  slot := control.extractLsb' 24 8

/-- The control word of a record of type `code`. -/
def controlOf (code : BitVec 6) (r : Rec) : Word32 :=
  r.slot ++ r.mid ++ code ++ r.flags ++ BitVec.ofBool r.cycle

/-! ### Type codes (R108) -/

/-- The record types in the order of the table of R108. -/
def recordTable : List (Rec → Instr) :=
  [.reserved0, .normal, .setupStage, .dataStage, .statusStage, .isoch, .link, .eventData,
   .noopTransfer, .enableSlotCmd, .disableSlotCmd, .addressDeviceCmd, .configureEndpointCmd, .evaluateContextCmd, .resetEndpointCmd, .stopEndpointCmd,
   .setTrDequeuePointerCmd, .resetDeviceCmd, .forceEventCmd, .negotiateBandwidthCmd, .setLatencyToleranceValueCmd, .getPortBandwidthCmd, .forceHeaderCmd, .noopCmd,
   .getExtendedPropertyCmd, .setExtendedPropertyCmd, .reserved26, .reserved27, .reserved28, .reserved29, .reserved30, .reserved31,
   .transferEvent, .commandCompletionEvent, .portStatusChangeEvent, .bandwidthRequestEvent, .doorbellEvent, .hostControllerEvent, .deviceNotificationEvent, .mfindexWrapEvent,
   .reserved40, .reserved41, .reserved42, .reserved43, .reserved44, .reserved45, .reserved46, .reserved47,
   .vendor48, .vendor49, .vendor50, .vendor51, .vendor52, .vendor53, .vendor54, .vendor55,
   .vendor56, .vendor57, .vendor58, .vendor59, .vendor60, .vendor61, .vendor62, .vendor63]

/-- The record of type number `kind` of that table. -/
def recordOf (kind : BitVec 6) (r : Rec) : Instr :=
  (recordTable.getD kind.toNat Instr.vendor63) r

/-- The record of type number `kind` as the triple of R150, its code the layout's (D3). -/
def trbOf (l : Layout) (kind : BitVec 6) (r : Rec) : Trb :=
  { param := r.param, status := r.status, control := controlOf (l.codeOf kind) r }

/-- Which format bytes are read in. The index of a doorbell register or of a DCBAA entry is the place
the word stands at, not a part of the word (log 16). -/
inductive Format where
  | trb
  | dbword (reg : Nat)
  | crcrword
  | dcbaaent (index : Nat)
  deriving DecidableEq, Repr

/-- Why bytes are no word of a format. -/
inductive DecodeError where
  /-- a record is exactly 16 bytes (R122) -/
  | recordLength
  /-- a doorbell word is 4 bytes, a control word or a DCBAA entry 8 (R100) -/
  | wordLength
  /-- bits 15:8 of a doorbell word are 0 (R116) -/
  | doorbellZero
  /-- bits 5:0 of a command-ring-control word are 000001 (R117) -/
  | crcrLowBits
  deriving DecidableEq, Repr

/-- The doorbell word `target | (stream_id << 16)` (R116). -/
def dbWord (target : BitVec 8) (stream : BitVec 16) : Word32 :=
  target.setWidth 32 ||| (stream.setWidth 32 <<< 16)

/-- The command-ring-control word: bits 63:6 of the ring base, 0, RCS = 1 (R117). -/
def crcrWord (base : BitVec 58) : Word64 := base ++ 1#6

/-- A record from its three words: `TYPE` alone selects the constructor (R103), and every code has one
(R121: decoding is total). -/
def decodeTrb (l : Layout) (t : Trb) : Instr :=
  recordOf (l.kindOf (typeField t.control)) (recOf t.param t.status t.control)

/-- The three words of 16 bytes (R20, R101). -/
def trbOfBytes (bs : List Byte) : Trb where
  param := wordOf (bs.take 8)
  status := (wordOf ((bs.drop 8).take 4)).setWidth 32
  control := (wordOf (bs.drop 12)).setWidth 32

/-- Decoding, total on any bytes. -/
def decode (l : Layout) : Format → List Byte → Except DecodeError Instr
  | .trb, bs =>
    if bs.length = 16 then .ok (decodeTrb l (trbOfBytes bs))
    else .error .recordLength
  | .dbword reg, bs =>
    if bs.length = 4 then
      let w := wordOf bs
      if w.extractLsb' 8 8 = 0 then .ok (.dbword reg (w.extractLsb' 0 8) (w.extractLsb' 16 16))
      else .error .doorbellZero
    else .error .wordLength
  | .crcrword, bs =>
    if bs.length = 8 then
      let w := wordOf bs
      if w.extractLsb' 0 6 = 1 then .ok (.crcrword (w.extractLsb' 6 58)) else .error .crcrLowBits
    else .error .wordLength
  | .dcbaaent index, bs =>
    if bs.length = 8 then .ok (.dcbaaent index (wordOf bs)) else .error .wordLength

/-- The 16 bytes of a TRB: `param`, `status`, `control`, each little-endian (R101). -/
def trbBytes (t : Trb) : List Byte :=
  bytesOf 8 t.param ++ bytesOf 4 (t.status.setWidth 64) ++ bytesOf 4 (t.control.setWidth 64)

/-- The bytes of a record of type number `kind`. -/
def encodeRecord (l : Layout) (kind : BitVec 6) (r : Rec) : Format × List Byte := (.trb, trbBytes (trbOf l kind r))

/-- The encoder: the format and the bytes of an instruction that has a bit pattern; an operation of the
block has none (R127). -/
def encode (l : Layout) : Instr → Option (Format × List Byte)
  | .reserved0 r => some (encodeRecord l 0 r)
  | .normal r => some (encodeRecord l 1 r)
  | .setupStage r => some (encodeRecord l 2 r)
  | .dataStage r => some (encodeRecord l 3 r)
  | .statusStage r => some (encodeRecord l 4 r)
  | .isoch r => some (encodeRecord l 5 r)
  | .link r => some (encodeRecord l 6 r)
  | .eventData r => some (encodeRecord l 7 r)
  | .noopTransfer r => some (encodeRecord l 8 r)
  | .enableSlotCmd r => some (encodeRecord l 9 r)
  | .disableSlotCmd r => some (encodeRecord l 10 r)
  | .addressDeviceCmd r => some (encodeRecord l 11 r)
  | .configureEndpointCmd r => some (encodeRecord l 12 r)
  | .evaluateContextCmd r => some (encodeRecord l 13 r)
  | .resetEndpointCmd r => some (encodeRecord l 14 r)
  | .stopEndpointCmd r => some (encodeRecord l 15 r)
  | .setTrDequeuePointerCmd r => some (encodeRecord l 16 r)
  | .resetDeviceCmd r => some (encodeRecord l 17 r)
  | .forceEventCmd r => some (encodeRecord l 18 r)
  | .negotiateBandwidthCmd r => some (encodeRecord l 19 r)
  | .setLatencyToleranceValueCmd r => some (encodeRecord l 20 r)
  | .getPortBandwidthCmd r => some (encodeRecord l 21 r)
  | .forceHeaderCmd r => some (encodeRecord l 22 r)
  | .noopCmd r => some (encodeRecord l 23 r)
  | .getExtendedPropertyCmd r => some (encodeRecord l 24 r)
  | .setExtendedPropertyCmd r => some (encodeRecord l 25 r)
  | .reserved26 r => some (encodeRecord l 26 r)
  | .reserved27 r => some (encodeRecord l 27 r)
  | .reserved28 r => some (encodeRecord l 28 r)
  | .reserved29 r => some (encodeRecord l 29 r)
  | .reserved30 r => some (encodeRecord l 30 r)
  | .reserved31 r => some (encodeRecord l 31 r)
  | .transferEvent r => some (encodeRecord l 32 r)
  | .commandCompletionEvent r => some (encodeRecord l 33 r)
  | .portStatusChangeEvent r => some (encodeRecord l 34 r)
  | .bandwidthRequestEvent r => some (encodeRecord l 35 r)
  | .doorbellEvent r => some (encodeRecord l 36 r)
  | .hostControllerEvent r => some (encodeRecord l 37 r)
  | .deviceNotificationEvent r => some (encodeRecord l 38 r)
  | .mfindexWrapEvent r => some (encodeRecord l 39 r)
  | .reserved40 r => some (encodeRecord l 40 r)
  | .reserved41 r => some (encodeRecord l 41 r)
  | .reserved42 r => some (encodeRecord l 42 r)
  | .reserved43 r => some (encodeRecord l 43 r)
  | .reserved44 r => some (encodeRecord l 44 r)
  | .reserved45 r => some (encodeRecord l 45 r)
  | .reserved46 r => some (encodeRecord l 46 r)
  | .reserved47 r => some (encodeRecord l 47 r)
  | .vendor48 r => some (encodeRecord l 48 r)
  | .vendor49 r => some (encodeRecord l 49 r)
  | .vendor50 r => some (encodeRecord l 50 r)
  | .vendor51 r => some (encodeRecord l 51 r)
  | .vendor52 r => some (encodeRecord l 52 r)
  | .vendor53 r => some (encodeRecord l 53 r)
  | .vendor54 r => some (encodeRecord l 54 r)
  | .vendor55 r => some (encodeRecord l 55 r)
  | .vendor56 r => some (encodeRecord l 56 r)
  | .vendor57 r => some (encodeRecord l 57 r)
  | .vendor58 r => some (encodeRecord l 58 r)
  | .vendor59 r => some (encodeRecord l 59 r)
  | .vendor60 r => some (encodeRecord l 60 r)
  | .vendor61 r => some (encodeRecord l 61 r)
  | .vendor62 r => some (encodeRecord l 62 r)
  | .vendor63 r => some (encodeRecord l 63 r)
  | .dbword reg t st => some (.dbword reg, bytesOf 4 ((dbWord t st).setWidth 64))
  | .crcrword b => some (.crcrword, bytesOf 8 (crcrWord b))
  | .dcbaaent i a => some (.dcbaaent i, bytesOf 8 a)
  | .read _ => none
  | .write _ _ => none
  | .readBits _ _ _ => none
  | .writeBits _ _ _ _ => none
  | .normalTrbNew _ _ => none
  | .trbLink _ => none
  | .setupStageTrbNew _ _ _ _ _ => none
  | .dataStageTrbNewIn _ _ => none
  | .dataStageTrbNewOut _ _ => none
  | .statusStageTrbNewIn => none
  | .statusStageTrbNewOut => none
  | .commandTrbNew _ _ _ => none
  | .cycleBitState _ => none
  | .setCycleState _ _ _ => none
  | .trbType _ => none
  | .slotId _ => none
  | .data _ => none
  | .toggleCycle _ => none
  | .completionCode _ => none
  | .transferLength _ => none
  | .classify _ => none
  | .store _ _ _ => none
  | .load _ _ => none
  | .trbRingNew _ => none
  | .slot _ _ => none
  | .slotAddr _ _ => none
  | .advanceIndex _ _ => none
  | .advanceIndexNotoggle _ _ => none
  | .trbRingReset _ => none
  | .current _ => none
  | .trbRingPhysAddr _ => none
  | .setLinkTrb _ => none
  | .skipLink _ => none
  | .commandRingNew => none
  | .commandRingReset => none
  | .commandRingPhysAddr => none
  | .crcrValue => none
  | .push _ => none
  | .transferRingNew _ => none
  | .fillRing _ => none
  | .dequeueTrb _ _ => none
  | .eventRingReset => none
  | .hasEvent => none
  | .pop => none
  | .maxDeviceSlots => none
  | .maxInterrupters => none
  | .maxPorts => none
  | .maxScratchpadBuffers => none
  | .isHalted => none
  | .resetXhc => none
  | .startXhc => none
  | .setDcbaaPtr _ => none
  | .setCmdRingCtrl _ => none
  | .setNumDeviceSlots _ => none
  | .notify _ _ _ => none
  | .pinnedNew _ _ _ _ => none
  | .pinnedPhysAddr _ => none
  | .getUncheckedMut _ => none
  | .dcbaaNew => none
  | .dcbaaSetEntry _ _ => none
  | .dcbaaEntry _ => none

/-! ### Words as the opcode table numbers them -/

/-- The format and bytes of a table word, laid out as the hardware stores it. A 32-bit word is the
control word of a record whose `param` and `status` are 0, bytes 12 to 15; a word with TYPE 0 and bits
15:8 zero that is not all zero is read as a doorbell word, which the bits alone do not tell from a
record of type 0 (log 11). A 64-bit word whose bits 5:0 are 000001 is a command-ring-control word, any
other a DCBAA entry. -/
def tableBytes (nbits w : Nat) : Option (Format × List Byte) :=
  if nbits = 32 then
    let v := BitVec.ofNat 64 (w % 2 ^ 32)
    if v.extractLsb' 8 8 = 0 ∧ v ≠ 0 then some (.dbword 0, bytesOf 4 v)
    else some (.trb, List.replicate 12 0 ++ bytesOf 4 v)
  else if nbits = 64 then
    let v := BitVec.ofNat 64 w
    if v.extractLsb' 0 6 = 1 then some (.crcrword, bytesOf 8 v) else some (.dcbaaent 0, bytesOf 8 v)
  else none

/-- The instruction the decoder reads from a table word, at the layout the opcode table is written in. -/
def decodeTableWord (nbits w : Nat) : Option Instr :=
  match tableBytes nbits w with
  | none => none
  | some (f, bs) =>
    match decode .standard f bs with
    | .ok i => some i
    | .error _ => none

end Sys2Proof
end

