-- ==== Sys2Proof/Machine/State.lean ====
section
/-! DEFINITION. The state of the block as plain data (spec/10_state.md), the reasons a step can stop, and
the state at launch (R341 of spec/70_reset_and_hazards.md). -/

namespace Sys2Proof.Machine

open Sys2Proof

/-! ### Why a step stops -/

/-- The fatal codes of R301, in the order of its table. -/
inductive FatalCode where
  /-- 1: `advance_index` on a slot that already holds the new cycle bit (R302) -/
  | cycleUnchanged
  /-- 2: `advance_index_notoggle` on a slot whose cycle bit is not ours (R303) -/
  | cycleMismatch
  /-- 3: `dequeue_trb` with an address that is not the dequeue slot's (R304) -/
  | dequeueAddr
  /-- 4: an explicit ring or buffer index out of range (R305) -/
  | ringIndex
  /-- 5: the page allocator supplied no block (R307) -/
  | dmaAlloc
  /-- 6: reserved so that the table matches the source's list; never raised (R308) -/
  | pixelFormat
  /-- 7: a bit span outside the word (R309) -/
  | bitRange
  deriving DecidableEq, Repr

/-- Faults of a step. -/
inductive Fault where
  /-- Raised by the step of a CPU agent after a fatal marked the state (R300: "neither SW nor IH has a
  further step"). Safe: nothing is claimed after a fatal (R37). -/
  | fatal (code : FatalCode)
  deriving DecidableEq, Repr

/-- Refusals: an operation the spec gives no meaning (R306). Each is recorded in the mark `refused`, and
answered by the next step of a CPU agent. All are safe: nothing is claimed after a refusal (R37). -/
inductive Refusal where
  /-- an instruction with no meaning yet; no meaning raises it -/
  | notModelled (mnemonic : String)
  /-- raised by an accessor that reads a Doorbell register (R53, R54, R306) -/
  | doorbellRead
  /-- raised by an accessor that writes a Capability register (R54, R306) -/
  | capabilityWrite
  /-- raised by an accessor at an address that is no multiple of the access size (R77, R306) -/
  | misaligned
  /-- raised by an accessor at a width other than the word's storage width (R78, R306) -/
  | wrongWidth
  /-- raised by an accessor at an offset of a register block that holds no register (R72) -/
  | noRegister
  /-- raised by an accessor at a DMA address outside every live allocation (R71) -/
  | outsideAllocation
  /-- raised by `CommandTrb::new` with a type outside 9 to 25 (R159, R306) -/
  | commandType
  /-- raised by a constructor or `notify` when an operand is wider than declared (R306) -/
  | operandWidth
  /-- raised by `notify` with a register index not below `NUM_DOORBELLS` (R268, R306) -/
  | doorbellIndex
  /-- raised by a DCBAA operation with an index not below 256 (R297, R306) -/
  | dcbaaIndex
  /-- raised by `TransferRing::new` when `TR_TRANSFER_LEN` exceeds 4096 (R226, R306) -/
  | transferLen
  /-- raised by an operation on a ring, buffer or DCBAA that has not been constructed (log 30) -/
  | noSuchObject
  /-- raised by `Pinned::new` for a type of size 0 or alignment 0, which does not occur (R290) -/
  | emptyType
  deriving DecidableEq, Repr

/-! ### Agents, locks, accesses -/

/-- The agents of the CPU (R6). -/
inductive CpuAgent where
  | sw
  | ih
  deriving DecidableEq, Repr

/-- A lock is free or held by an agent (R59). -/
inductive Lock where
  | free
  | held (a : CpuAgent)
  deriving DecidableEq, Repr

/-- The locks of the block: one per Transfer Ring, one per Doorbell register (R59). -/
inductive LockId where
  | ring (k : Nat)
  | doorbell (i : Nat)
  deriving DecidableEq, Repr

/-- The registers of the three blocks (R41 to R52). -/
inductive Reg where
  | caplength
  | capReserved
  | hciversion
  | hcsparams1
  | hcsparams2
  | hcsparams3
  | hccparams1
  | dboff
  | rtsoff
  | hccparams2
  | usbcmd
  | usbsts
  | pagesize
  | dnctrl
  | crcr
  | dcbaap
  | config
  /-- a reserved word or port register of the Operational block, by its offset (R51) -/
  | opOther (off : Nat)
  | doorbell (i : Nat)
  deriving DecidableEq, Repr

/-- What one volatile access touches: DMA-visible memory, a register, or one 32-bit half of a 64-bit
register (`SPLIT64`, R91). -/
inductive Loc where
  | dma (a : Addr)
  | reg (r : Reg)
  | regLo (r : Reg)
  | regHi (r : Reg)
  deriving DecidableEq, Repr

inductive AccessKind where
  | read
  | write
  deriving DecidableEq, Repr

/-- One volatile access of a CPU agent (R11, R80). -/
structure Access where
  agent : CpuAgent
  kind : AccessKind
  loc : Loc
  bytes : Nat
  value : Word64
  deriving DecidableEq, Repr

/-! ### Memory and allocations -/

/-- DMA-visible memory (R58, R71): the bytes that are not 0, by rising address. -/
abbrev Memory := List Host.Cell

/-- What an allocation holds, which fixes the storage width of its words (R78). -/
inductive AllocKind where
  | ring
  | buffer
  | dcbaa
  | other
  deriving DecidableEq, Repr

/-- A Pinned DMA allocation (R290). -/
structure Alloc where
  base : Addr
  size : Nat
  kind : AllocKind
  deriving DecidableEq, Repr

/-! ### Software objects -/

/-- A Ring Buffer (R23, R24). -/
structure RingBuf where
  phys : Addr
  index : Fin 16
  deriving DecidableEq, Repr

/-- The Command Ring (R27, R28). -/
structure CommandRing where
  ring : RingBuf
  cso : Bool
  deriving DecidableEq, Repr

/-- A Transfer Ring (R29 to R32, R225). -/
structure TransferRing where
  ring : RingBuf
  deq : Fin 15
  cso : Bool
  buffers : List Addr
  lock : Lock
  deriving DecidableEq, Repr

/-- The Event Ring (R34, R245). -/
structure EventRing where
  ring : RingBuf
  cso : Bool
  /-- ghost of R333: how many posted events software has not consumed (log 28) -/
  unread : Nat
  deriving DecidableEq, Repr

/-- A bare Pinned DMA buffer (R36). -/
structure PinnedBuf where
  phys : Addr
  size : Nat
  deriving DecidableEq, Repr

/-! ### Registers -/

/-- The Capability block, constants of the controller (R40 to R44). -/
structure CapRegs where
  caplength : BitVec 8
  reserved : BitVec 8
  hciversion : BitVec 16
  hcsparams1 : Word32
  hcsparams2 : Word32
  hcsparams3 : Word32
  hccparams1 : Word32
  dboff : Word32
  rtsoff : Word32
  hccparams2 : Word32
  deriving DecidableEq, Repr

/-- The Operational block (R45 to R51). -/
structure OpRegs where
  usbcmd : Word32
  usbsts : Word32
  pagesize : Word32
  dnctrl : Word32
  crcr : Word64
  dcbaap : Word64
  config : Word32
  deriving DecidableEq, Repr

/-! ### Results and operations in progress -/

/-- The names `classify` maps a record to (R174). -/
inductive TrbClass where
  | normal
  | setupStage
  | dataStage
  | statusStage
  | isoch
  | link
  | eventData
  | noOp
  | command (code : BitVec 6)
  | event (code : BitVec 6)
  | reserved (code : BitVec 6)
  | vendor (code : BitVec 6)
  deriving DecidableEq, Repr

/-- The views of the event records that have one (R171 to R173). -/
inductive EventView where
  | transfer (trbPtr : Addr) (residual code endpoint : Word64) (slot : BitVec 8)
  | completion (cmdPtr : Addr) (code : Word64) (slot : BitVec 8)
  | port (port code : Word64)
  /-- every other record is decoded by the uniform accessors only (R173) -/
  | uniform
  deriving DecidableEq, Repr

/-- What the uniform accessors and the view of its type say of a record (R164 to R174). -/
structure RecordView where
  cls : TrbClass
  cycle : Bool
  slot : BitVec 8
  data : Word64
  toggle : Bool
  event : EventView
  deriving DecidableEq, Repr

/-- The result an operation ends `ok` with (R13). -/
inductive Result where
  | unit
  | flag (b : Bool)
  | word (w : Word64)
  | trb (t : Trb)
  | slotRef (r : RingId) (i : Nat)
  | cls (c : TrbClass)
  | record (v : RecordView)
  | region (base : Addr) (size : Nat)
  deriving DecidableEq, Repr

/-- What one access or read of private state answers to the operation that made it. -/
inductive Val where
  | unit
  | flag (b : Bool)
  | word (w : Word64)
  | loc (l : Loc)
  | ring (r : RingBuf)
  | transfer (t : TransferRing)
  | params (p : Params)
  deriving DecidableEq, Repr

/-- A status bit that an agent awaits: bit `bit` of register `reg` to become `value` (R275). -/
structure Awaited where
  reg : Reg
  bit : Nat
  value : Bool
  deriving DecidableEq, Repr

/-- An operation begun and not finished: the operation, what its accesses answered so far, oldest first, and the
status bit it holds for, if it does. -/
structure Pending where
  instr : Instr
  answers : List Val
  awaits : Option Awaited
  deriving DecidableEq, Repr

/-- A CPU agent: the operations its caller still issues, its operation in progress, the result of its
last operation. -/
structure Ctx where
  program : List Instr
  current : Option Pending
  result : Result
  deriving DecidableEq, Repr

/-! ### Whose turn it is -/

/-- The steps of the controller (R330 to R334). -/
inductive HcStep where
  /-- consume the record at the pointer of a ring, fetch and execution at once (R331, R332) -/
  | consume (r : RingSel)
  /-- fetch the transfer TRB at the pointer of endpoint `k`'s ring and hold it (R295, R332; log 46) -/
  | fetch (k : Nat)
  /-- execute the held TRB number `j`: transfer its data, enqueue its event (R332; log 46) -/
  | complete (j : Nat)
  /-- post the oldest waiting event (R333) -/
  | post
  /-- the register steps (R334) -/
  | halt
  | resetComplete
  | run
  deriving DecidableEq, Repr

/-- What software owns and can drop (R295): a ring with all its memory, a bare Pinned buffer, the DCBAA. -/
inductive Owned where
  | ring (r : RingId)
  | pinned (k : Nat)
  | dcbaa
  deriving DecidableEq, Repr

/-- One turn of the interleaving (R329). -/
inductive Turn where
  /-- the running CPU agent goes on to the end of an operation, or to a hold -/
  | cpu
  /-- the running CPU agent makes one access -/
  | access
  /-- the completion notification is taken: a handler begins (R315, R318) -/
  | handler
  /-- the running CPU agent drops an owner, between two of its operations (R232, R295, R346; log 39) -/
  | drop (o : Owned)
  /-- the controller takes a step, if it is enabled -/
  | hc (h : HcStep)
  /-- out of scope, R350 step 10: Transfer Ring `k` becomes the ring of an endpoint (R33, R336) -/
  | bindEndpoint (slot : BitVec 8) (endpoint : BitVec 5) (k : Nat)
  /-- out of scope, R350 step 7: the event-ring registers are set up (R246, R347) -/
  | bindEventRing
  deriving DecidableEq, Repr

/-- On whose behalf a record is executed (log 9): software holds it as a value, the controller consumes it from a
ring, or the controller has fetched it before and executes it now. -/
inductive Serving where
  | value
  | hc (r : RingSel)
  | held (h : HeldTrb)
  deriving DecidableEq, Repr

/-! ### The state -/

/-- The whole block. -/
structure State where
  /-- the configuration record (R9), constant -/
  cfg : Params
  /-- DMA-visible memory (R58) -/
  mem : Memory
  /-- the live allocations (R290) -/
  allocs : List Alloc
  /-- model's own: the blocks that were freed while the controller could hold their address, since its last completed
  reset (R295, R346, R368; log 39, 49) -/
  stale : List Alloc
  /-- the Command Ring (R27) -/
  cmdRing : Option CommandRing
  /-- the Transfer Rings (R29); a dropped one leaves its place empty -/
  transferRings : List (Option TransferRing)
  /-- the Event Ring (R34) -/
  eventRing : Option EventRing
  /-- Ring Buffers with no owner (R190) -/
  bareRings : List (Option RingBuf)
  /-- Pinned buffers with no owner (R36) -/
  pinned : List (Option PinnedBuf)
  /-- `dcbaa.phys_addr` (R35) -/
  dcbaa : Option Addr
  /-- Capability block (R40) -/
  cap : CapRegs
  /-- Operational block (R45) -/
  op : OpRegs
  /-- the Doorbell registers whose lock is held, and by whom (R59) -/
  dbLocks : List (Nat × CpuAgent)
  /-- the controller's hidden state (R33, R330) -/
  hc : HcHidden
  /-- driver code in ordinary context (R6) -/
  sw : Ctx
  /-- driver code in interrupt-handler context (R6) -/
  ih : Ctx
  /-- whether a handler has begun and not ended (R318) -/
  handlerActive : Bool
  /-- model's own: the CPU agent whose turn it is, or was last (log 22) -/
  cpu : CpuAgent
  /-- the operations of each handler to come, the next one's first: an input (R315, log 22) -/
  handlerCode : List (List Instr)
  /-- the mark `faulted` with its code (R37) -/
  faulted : Option FatalCode
  /-- the mark `refused` with its reason (R37) -/
  refused : Option Refusal
  /-- model's own: the interleaving still to come (log 7) -/
  turns : List Turn
  /-- model's own: on whose behalf a record is executed (log 9) -/
  serving : Serving
  /-- model's own: free words fixed in advance, an input (log 4) -/
  supply : List Word64
  /-- model's own: hidden states after the controller resets to come, an input (log 27) -/
  hcSupply : List HcHidden
  /-- model's own: how many free values were drawn from `Config` -/
  drawn : Nat
  /-- model's own: the volatile accesses of the CPU agents, newest first (log 33) -/
  trace : List Access
  deriving DecidableEq, Repr

/-! ### Launch -/

/-- What the spec leaves unspecified at launch (R56, R341): the open parameters, the controller's
constants, the Operational registers and the controller's hidden state. -/
structure Launch where
  cfg : Params
  cap : CapRegs
  op : OpRegs
  hc : HcHidden

/-- An agent with nothing to do. -/
def Ctx.idle : Ctx := { program := [], current := none, result := .unit }

/-- The launch of R341: no ring, buffer or DCBAA exists, every lock is free, no mark is set, and the
unspecified part is `l`. -/
def State.launch (l : Launch) : State where
  cfg := l.cfg
  mem := []
  allocs := []
  stale := []
  cmdRing := none
  transferRings := []
  eventRing := none
  bareRings := []
  pinned := []
  dcbaa := none
  cap := l.cap
  op := l.op
  dbLocks := []
  hc := l.hc
  sw := Ctx.idle
  ih := Ctx.idle
  handlerActive := false
  cpu := .sw
  handlerCode := []
  faulted := none
  refused := none
  turns := []
  serving := .value
  supply := []
  hcSupply := []
  drawn := 0
  trace := []

/-- The values the model names for what is unspecified at launch. DESIGN CHOICE (unsafe, log 1, 2, 32):
the register values are the launch draw of program P3 of spec/95_test_vectors.md, the others 0; the
parameters are the defaults of spec/92_eei_decisions.md. -/
def Launch.named : Launch where
  cfg :=
    { layout := .standard, trTransferLen := 4096, mmioBase := 0, split64 := false, dataIoc := true, dataIsp := false,
      statusIoc := true, numDoorbells := 256 }
  cap :=
    { caplength := 0x20, reserved := 0, hciversion := 0, hcsparams1 := 0x08000840,
      hcsparams2 := 0x14200000, hcsparams3 := 0, hccparams1 := 0, dboff := 0x2000, rtsoff := 0,
      hccparams2 := 0 }
  op :=
    { usbcmd := 0x00000005, usbsts := 0, pagesize := 0, dnctrl := 0, crcr := 0, dcbaap := 0,
      config := 0x00000340 }
  hc :=
    { cmd := { p := 0, ccs := true }, endpoints := [], held := [], pending := [], unposted := [], q := 0,
      pcs := true, known := [] }

/-- The machine right after launch. -/
def State.reset : State := State.launch Launch.named

end Sys2Proof.Machine
end

