-- ==== Sys2Proof/Machine/Flags.lean ====
section
/-! DEFINITION. Bit fields and flags: the span arithmetic of the Bitfield Register Accessor (R125, R143,
R144), the fields of a TRB (R102, R104, R105), the register bits the block reads and writes (R46, R47)
with the constant operands of R148, and the classification of records (R174). -/

namespace Sys2Proof.Machine

open Sys2Proof

/-! ### Spans of bits -/

/-- `2^width - 1`, computed over the naturals (R125). -/
def maskOf (width : Nat) : Word64 := BitVec.ofNat 64 (2 ^ width - 1)

/-- `(v >> shift) & (2^width - 1)` (R143). -/
def readSpan (shift width : Nat) (v : Word64) : Word64 := (v >>> shift) &&& maskOf width

/-- The new word of `write_bits` on a word of `bits` bits (R144): the span takes `value mod 2^width`,
every other bit stays. -/
def writeSpan (bits shift width : Nat) (old value : Word64) : Word64 :=
  let mask := (maskOf width <<< shift) &&& maskOf bits
  (old &&& ~~~mask) ||| (((value &&& maskOf width) <<< shift) &&& mask)

/-- The field `f` of a word (R143). -/
def readField (f : Span) (v : Word64) : Word64 := readSpan f.shift f.width v

/-- The word whose field `f` is `v` mod its width, every other bit 0 (R144). -/
def putField (f : Span) (v : Word64) : Word64 := (v &&& maskOf f.width) <<< f.shift

/-! ### Fields of a TRB -/

/-- The cycle bit (R164). -/
def trbCycle (t : Trb) : Bool := t.control.getLsbD 0
/-- The toggle-cycle bit (R169). -/
def trbToggle (t : Trb) : Bool := t.control.getLsbD 1
/-- The TYPE field (R166). -/
def trbTypeOf (t : Trb) : BitVec 6 := typeField t.control
/-- Whether a record is of one of the types that have a variant bit, its numbers in the table of R108 given (the column
"present in" of R104). -/
def presentIn (l : Layout) (kinds : List (BitVec 6)) (t : Trb) : Bool := kinds.contains (l.kindOf (trbTypeOf t))
/-- ISP, interrupt-on-short-packet, of a Normal, Data Stage or Isoch record (R104). -/
def trbIsp (l : Layout) (t : Trb) : Bool := presentIn l [1, 3, 5] t && t.control.getLsbD l.isp
/-- IOC, interrupt-on-completion, of a transfer TRB or a Link (R104). -/
def trbIoc (l : Layout) (t : Trb) : Bool := presentIn l [1, 2, 3, 4, 5, 6, 7, 8] t && t.control.getLsbD l.ioc
/-- IDT, immediate data, of a Normal, Setup Stage, Data Stage or Isoch record (R104). -/
def trbIdt (l : Layout) (t : Trb) : Bool := presentIn l [1, 2, 3, 5] t && t.control.getLsbD l.idt
/-- DIR, data direction, of a Data Stage or Status Stage record (R104). -/
def trbDir (l : Layout) (t : Trb) : Bool := presentIn l [3, 4] t && t.control.getLsbD l.dir
/-- The slot id (R167). -/
def trbSlotId (t : Trb) : BitVec 8 := t.control.extractLsb' 24 8
/-- The endpoint id of a Transfer Event (R115). -/
def trbEndpoint (l : Layout) (t : Trb) : Word64 := readField l.endpoint (t.control.setWidth 64)
/-- The completion code of an event (R170). -/
def trbCompletionCode (l : Layout) (t : Trb) : Word64 := readField l.completionCode (t.status.setWidth 64)
/-- `status[23:0]`, the length field of an event (R170). -/
def trbEventLength (l : Layout) (t : Trb) : Word64 := readField l.eventLength (t.status.setWidth 64)
/-- `status[16:0]`, the length field of a transfer TRB (R105, R170). -/
def trbTransferLength (l : Layout) (t : Trb) : Word64 := readField l.transferLength (t.status.setWidth 64)
/-- The port id of a Port Status Change Event (R115). -/
def trbPortId (l : Layout) (t : Trb) : Word64 := readField l.portId t.param

/-- The control word with cycle bit `c` (R165, R176). -/
def withCycle (control : Word32) (c : Bool) : Word32 :=
  (control &&& ~~~1#32) ||| (BitVec.ofBool c).setWidth 32

/-! ### Register bits -/

/-- The word with bit `i` set alone. -/
def oneBit (i : Nat) : Word32 := 1#32 <<< i

/-- The variant bits of a control word that no row of R104 or R115 names for an event. -/
def eventOpaque (l : Layout) : Word32 :=
  oneBit l.ent ||| oneBit l.isp ||| oneBit l.ns ||| oneBit l.ch ||| oneBit l.ioc ||| oneBit l.idt ||| oneBit l.bei

/-- `USBCMD.R/S` (R46). -/
def runStop (l : Layout) (usbcmd : Word32) : Bool := usbcmd.getLsbD l.runStop
/-- `USBCMD.HCRST` (R46). -/
def hcReset (l : Layout) (usbcmd : Word32) : Bool := usbcmd.getLsbD l.hcReset
/-- `USBSTS.HCH` (R47). -/
def halted (l : Layout) (usbsts : Word32) : Bool := usbsts.getLsbD l.halted

/-- State `Running` of R270: `R/S` = 1, `HCRST` = 0, `HCH` = 0. -/
def running (l : Layout) (o : OpRegs) : Bool :=
  runStop l o.usbcmd && !hcReset l o.usbcmd && !halted l o.usbsts

/-! ### Classification -/

/-- The name of a type code whose number in the table of R108 is `kind` (R121, R174). -/
def classOfKind (kind code : BitVec 6) : TrbClass :=
  let n := kind.toNat
  if n = 1 then .normal
  else if n = 2 then .setupStage
  else if n = 3 then .dataStage
  else if n = 4 then .statusStage
  else if n = 5 then .isoch
  else if n = 6 then .link
  else if n = 7 then .eventData
  else if n = 8 then .noOp
  else if 9 ≤ n ∧ n ≤ 25 then .command code
  else if 32 ≤ n ∧ n ≤ 39 then .event code
  else if 48 ≤ n then .vendor code
  else .reserved code

/-- `classify` by type code (R174): total, never an error. -/
def classOf (l : Layout) (code : BitVec 6) : TrbClass := classOfKind (l.kindOf code) code

/-- The view of an event record: Transfer Event (R171), Command Completion Event (R172), Port Status
Change Event (R173); every other type has the uniform accessors only. -/
def eventViewOf (l : Layout) (t : Trb) : EventView :=
  let kind := l.kindOf (trbTypeOf t)
  if kind = 32 then
    .transfer t.param (trbEventLength l t) (trbCompletionCode l t) (trbEndpoint l t) (trbSlotId t)
  else if kind = 33 then .completion t.param (trbCompletionCode l t) (trbSlotId t)
  else if kind = 34 then .port (trbPortId l t) (trbCompletionCode l t)
  else .uniform

/-- What the accessors say of a record, "regardless of which constructor produced" it (R164 to R174). -/
def viewOf (l : Layout) (t : Trb) : RecordView where
  cls := classOf l (trbTypeOf t)
  cycle := trbCycle t
  slot := trbSlotId t
  data := t.param
  toggle := trbToggle t
  event := eventViewOf l t

end Sys2Proof.Machine
end

