-- ==== Sys2Proof/Machine/Ops.lean ====
section
/-! DEFINITION. The named operations on the state: DMA-visible memory (R71, R74), registers (R54), free
values, locks (R85), raising a fatal or a refusal (R300, R306), and `Prog`, the sequence of accesses an
operation makes (R80), with the two ways to run it: to its end, or one access at a time (R329). -/

namespace Sys2Proof.Machine

open Sys2Proof

/-! ### DMA-visible memory -/

/-- The byte at an address. An unlisted address reads 0: a live byte is zeroed when it is allocated
(R292), and no operation reads a byte that is not live (log 3). -/
def Memory.read : Memory → Nat → Byte
  | [], _ => 0
  | (k, b) :: m, a => if k = a then b else Memory.read m a

/-- Store one byte, keeping addresses rising and listing no 0. -/
def Memory.write : Memory → Nat → Byte → Memory
  | [], a, b => if b = 0 then [] else [(a, b)]
  | (k, c) :: m, a, b =>
    if a < k then (if b = 0 then (k, c) :: m else (a, b) :: (k, c) :: m)
    else if a = k then (if b = 0 then m else (a, b) :: m)
    else (k, c) :: Memory.write m a b

/-- Entries from `lo` on, rising, none 0. -/
def Memory.wfFrom : Nat → Memory → Bool
  | _, [] => true
  | lo, (a, b) :: m => decide (lo ≤ a) && decide (b ≠ 0) && Memory.wfFrom (a + 1) m

/-- The canonical form. -/
def Memory.wf (m : Memory) : Bool := Memory.wfFrom 0 m

/-- The little-endian word of `n` bytes at `a` (R11, R74). -/
def Memory.readWord (m : Memory) (a : Addr) (n : Nat) : Word64 :=
  wordOf ((List.range n).map fun i => m.read (a.toNat + i))

/-- Store bytes from an address on. -/
def Memory.writeBytes : Memory → Nat → List Byte → Memory
  | m, _, [] => m
  | m, a, b :: bs => Memory.writeBytes (m.write a b) (a + 1) bs

/-- Store the `n` low bytes of a word, least significant at `a` (R11, R74). -/
def Memory.writeWord (m : Memory) (a : Addr) (n : Nat) (v : Word64) : Memory :=
  m.writeBytes a.toNat (bytesOf n v)

/-- Every byte of `[base, base + n)` becomes 0 (R292). -/
def Memory.clear (m : Memory) (base n : Nat) : Memory :=
  m.filter fun c => decide (c.1 < base) || decide (base + n ≤ c.1)

/-- The three words of the record at `a`. -/
def Memory.readTrb (m : Memory) (a : Addr) : Trb where
  param := m.readWord a 8
  status := (m.readWord (a + 8) 4).setWidth 32
  control := (m.readWord (a + 12) 4).setWidth 32

/-! ### Agents, results, marks -/

/-- The CPU agent whose turn it is (R318, log 22). -/
def State.agent (s : State) : CpuAgent := s.cpu

/-- The context of an agent. -/
def State.ctxOf (s : State) : CpuAgent → Ctx
  | .sw => s.sw
  | .ih => s.ih

/-- The running agent's context. -/
def State.ctx (s : State) : Ctx := s.ctxOf s.cpu

def State.setCtx (s : State) (c : Ctx) : State :=
  { s with
    sw :=
      match s.cpu with
      | .sw => c
      | .ih => s.sw
    ih :=
      match s.cpu with
      | .sw => s.ih
      | .ih => c }

/-- An operation ends `ok` with a result (R13). -/
def State.finish (s : State) (r : Result) : State :=
  s.setCtx { s.ctx with current := none, result := r }

/-- The operation stays in progress: a hold (R275, R85), or the end of an `.access` turn (R329). -/
def State.suspend (s : State) (i : Instr) (answers : List Val) (awaits : Option Awaited) : State :=
  s.setCtx { s.ctx with current := some { instr := i, answers := answers, awaits := awaits } }

/-- `raise Fatal(code)` (R300, R312): the mark `faulted` is set with the code, the operation ends, and
nothing else changes; no register saves anything and control goes to no handler. There is no return
from a fatal (R313): no operation clears the mark. -/
def raiseFatal (code : FatalCode) (s : State) : State :=
  { s.setCtx { s.ctx with current := none } with faulted := some code }

/-- The operation ends `refused` (R306): the mark `refused` is set with the reason. -/
def raiseRefusal (why : Refusal) (s : State) : State :=
  { s.setCtx { s.ctx with current := none } with refused := some why }

/-- Record one volatile access of the running agent (R80). -/
def State.log (s : State) (kind : AccessKind) (l : Loc) (bytes : Nat) (v : Word64) : State :=
  { s with trace := { agent := s.agent, kind := kind, loc := l, bytes := bytes, value := v } :: s.trace }

/-! ### Free values (log 4) -/

/-- The next free word: one fixed in advance by the environment, or else a constant of `Config` nothing
is known about. -/
def State.draw (s : State) : Word64 × State :=
  (s.supply.head?.getD (Config.freeWord s.drawn),
    { s with
      supply := s.supply.tail
      drawn := if s.supply.isEmpty then s.drawn + 1 else s.drawn })

/-- The next free hidden state of the controller (R344). -/
def State.drawHidden (s : State) : HcHidden × State :=
  (s.hcSupply.head?.getD (Config.freeHidden s.drawn),
    { s with
      hcSupply := s.hcSupply.tail
      drawn := if s.hcSupply.isEmpty then s.drawn + 1 else s.drawn })

/-! ### Rings -/

/-- Physical address of slot `i` (R191). -/
def slotAt (base : Addr) (i : Nat) : Addr := base + BitVec.ofNat 64 (Config.trbSize * i)

/-- Address of the control word of slot `i` (R20). -/
def controlAt (base : Addr) (i : Nat) : Addr := slotAt base i + 12

/-- Transfer Ring `k`, unless its place is empty. -/
def State.transferRing? (s : State) (k : Nat) : Option TransferRing := s.transferRings[k]?.join

/-- Bare Pinned buffer `k`, unless its place is empty. -/
def State.pinnedBuf? (s : State) (k : Nat) : Option PinnedBuf := s.pinned[k]?.join

def State.ring? (s : State) : RingId → Option RingBuf
  | .command => s.cmdRing.map (·.ring)
  | .transfer k => (s.transferRing? k).map (·.ring)
  | .event => s.eventRing.map (·.ring)
  | .bare k => s.bareRings[k]?.join

/-- Change Transfer Ring `k`, if it stands. -/
def State.modifyTransfer (s : State) (k : Nat) (f : TransferRing → TransferRing) : List (Option TransferRing) :=
  s.transferRings.modify k (Option.map f)

/-- Write a ring's `current_index` (R24). -/
def State.setIndex (s : State) (r : RingId) (i : Fin 16) : State :=
  { s with
    cmdRing :=
      match r with
      | .command => s.cmdRing.map fun c => { c with ring := { c.ring with index := i } }
      | _ => s.cmdRing
    transferRings :=
      match r with
      | .transfer k => s.modifyTransfer k fun t => { t with ring := { t.ring with index := i } }
      | _ => s.transferRings
    eventRing :=
      match r with
      | .event => s.eventRing.map fun e => { e with ring := { e.ring with index := i } }
      | _ => s.eventRing
    bareRings :=
      match r with
      | .bare k => s.bareRings.modify k (Option.map fun b => { b with index := i })
      | _ => s.bareRings }

/-- The cursor moves on past a slot (R192, R193); on the Event Ring one posted event has been consumed (R333,
log 28). -/
def State.moveIndex (s : State) (r : RingId) (i : Fin 16) : State :=
  { s.setIndex r i with
    eventRing :=
      match r with
      | .event =>
        s.eventRing.map fun e => { e with ring := { e.ring with index := i }, unread := e.unread - 1 }
      | _ => s.eventRing }

/-- `cycle_state_ours` of a Command or Transfer Ring (R28, R31). -/
def State.cso? (s : State) : RingOwner → Option Bool
  | .command => s.cmdRing.map (·.cso)
  | .transfer k => (s.transferRing? k).map (·.cso)

def State.setCso (s : State) (o : RingOwner) (b : Bool) : State :=
  { s with
    cmdRing :=
      match o with
      | .command => s.cmdRing.map fun c => { c with cso := b }
      | .transfer _ => s.cmdRing
    transferRings :=
      match o with
      | .transfer k => s.modifyTransfer k fun t => { t with cso := b }
      | .command => s.transferRings }

/-- `R.cso <- not R.cso` (R198): one update, of the flag as it stands then (R329). -/
def State.flipCso (s : State) (o : RingOwner) : State :=
  match s.cso? o with
  | some b => s.setCso o (!b)
  | none => s

/-- The Ring Buffer of an owner. -/
def ownerRing : RingOwner → RingId
  | .command => .command
  | .transfer k => .transfer k

/-- Write a Transfer Ring's `dequeue_index` (R30). -/
def State.setDeq (s : State) (k : Nat) (d : Fin 15) : State :=
  { s with transferRings := s.modifyTransfer k fun t => { t with deq := d } }

/-- `ih_enabled`, which is `has_event()` (R247, R317): the slot at the Event Ring's cursor has the cycle
bit that marks it ours. -/
def State.hasEvent (s : State) : Bool :=
  match s.eventRing with
  | none => false
  | some e => trbCycle (s.mem.readTrb (slotAt e.ring.phys e.ring.index.val)) == e.cso

/-! ### Locks (R85) -/

def State.lock? (s : State) : LockId → Option Lock
  | .ring k => (s.transferRing? k).map (·.lock)
  | .doorbell i =>
    some (match s.dbLocks.find? (fun e => e.1 == i) with
      | some e => .held e.2
      | none => .free)

def State.setLock (s : State) (l : LockId) (v : Lock) : State :=
  { s with
    transferRings :=
      match l with
      | .ring k => s.modifyTransfer k fun t => { t with lock := v }
      | .doorbell _ => s.transferRings
    dbLocks :=
      match l, v with
      | .ring _, _ => s.dbLocks
      | .doorbell i, .free => s.dbLocks.filter fun e => e.1 != i
      | .doorbell i, .held a => (i, a) :: s.dbLocks.filter fun e => e.1 != i }

/-! ### The controller's side of a register write -/

/-- The ring a doorbell word addresses (R336): (0, 0, any) is the Command Ring, (s, t, any) with s ≥ 1
the ring of endpoint t of slot s; a ring the controller does not know is none. -/
def doorbellRing (l : Layout) (h : HcHidden) (i : Nat) (w : Word32) : Option RingSel :=
  let target := w.extractLsb' 0 8
  if i = l.commandDoorbell then (if target = l.commandTarget then some .command else none)
  else
    (h.endpoints.findIdx? fun e => decide (e.slot.toNat = i) && decide (e.endpoint.setWidth 8 = target)).map
      RingSel.endpoint

/-- The pending set gains the ring a doorbell write addresses (R53, R336). -/
def ringDoorbell (l : Layout) (h : HcHidden) (i : Nat) (w : Word32) : HcHidden :=
  match doorbellRing l h i w with
  | none => h
  | some r => if r ∈ h.pending then h else { h with pending := h.pending ++ [r] }

/-- The controller comes to hold addresses (R295, R368; log 49). -/
def learn (as : List Addr) (h : HcHidden) : HcHidden := { h with known := as ++ h.known }

/-- A complete write of `CRCR` loads the controller's Command Ring pointer and cycle state (R89, R266), and the
controller holds the address (R295).
While the controller is not halted the spec leaves the effect open ("outside the spec"): pointer and
cycle state are free (log 17). -/
def loadCrcr (v : Word64) (s : State) : State :=
  let s1 := { s with
    op := { s.op with crcr := v }
    hc := learn [v &&& ~~~maskOf s.cfg.layout.crcrPointer] s.hc }
  if halted s.cfg.layout s.op.usbsts then
    { s1 with hc := { s1.hc with cmd := { p := v &&& ~~~maskOf s.cfg.layout.crcrPointer, ccs := v.getLsbD 0 } } }
  else
    let (w, s2) := s1.draw
    { s2 with hc := { s2.hc with cmd := { p := w &&& ~~~0xF#64, ccs := w.getLsbD 0 } } }

/-! ### Registers (R54) -/

/-- The value of a register, and the state after reading it. Reading a Doorbell register is refused;
an opaque register reads as a free value (U11 of spec/93, log 19). The opaque bits of `USBSTS`, `USBCMD` and
`CONFIG` read as they last were: they change only by a write and by a controller reset (DESIGN CHOICE,
log 18, 34). `CRCR` and `DCBAAP`, which the block never reads (R48), answer the value last written, bits 5:1 of
`CRCR` included (DESIGN CHOICE, log 40). -/
def State.readReg (s : State) : Reg → Except Refusal (Word64 × State)
  | .caplength => .ok (s.cap.caplength.setWidth 64, s)
  | .capReserved => .ok (s.cap.reserved.setWidth 64, s)
  | .hciversion => .ok (s.cap.hciversion.setWidth 64, s)
  | .hcsparams1 => .ok (s.cap.hcsparams1.setWidth 64, s)
  | .hcsparams2 => .ok (s.cap.hcsparams2.setWidth 64, s)
  | .hcsparams3 => .ok (s.cap.hcsparams3.setWidth 64, s)
  | .hccparams1 => .ok (s.cap.hccparams1.setWidth 64, s)
  | .dboff => .ok (s.cap.dboff.setWidth 64, s)
  | .rtsoff => .ok (s.cap.rtsoff.setWidth 64, s)
  | .hccparams2 => .ok (s.cap.hccparams2.setWidth 64, s)
  | .usbcmd => .ok (s.op.usbcmd.setWidth 64, s)
  | .usbsts => .ok (s.op.usbsts.setWidth 64, s)
  | .pagesize =>
    let v : Word32 := s.draw.1.setWidth 32
    .ok (v.setWidth 64, { s.draw.2 with op := { s.op with pagesize := v } })
  | .dnctrl =>
    let v : Word32 := s.draw.1.setWidth 32
    .ok (v.setWidth 64, { s.draw.2 with op := { s.op with dnctrl := v } })
  | .crcr => .ok (s.op.crcr, s)
  | .dcbaap => .ok (s.op.dcbaap, s)
  | .config => .ok (s.op.config.setWidth 64, s)
  | .opOther _ => .ok ((s.draw.1.setWidth 32 : Word32).setWidth 64, s.draw.2)
  | .doorbell _ => .error .doorbellRead

/-- A complete write of `DCBAAP` (R49): the controller holds the address (R295). -/
def loadDcbaap (v : Word64) (s : State) : State :=
  { s with op := { s.op with dcbaap := v }, hc := learn [v] s.hc }

/-- Writing a register: a Capability register refuses (R54); `USBSTS` keeps `HCH`, which only the
controller writes, and its other bits are free (R47, log 18); `CRCR` loads the controller; a Doorbell
register keeps nothing and notifies it (R53). -/
def State.writeReg (s : State) (v : Word64) : Reg → Except Refusal State
  | .usbcmd => .ok { s with op := { s.op with usbcmd := v.setWidth 32 } }
  | .usbsts =>
    let w : Word32 := s.draw.1.setWidth 32
    let hch := oneBit s.cfg.layout.halted
    .ok { s.draw.2 with op := { s.op with usbsts := (w &&& ~~~hch) ||| (s.op.usbsts &&& hch) } }
  | .pagesize => .ok { s with op := { s.op with pagesize := v.setWidth 32 } }
  | .dnctrl => .ok { s with op := { s.op with dnctrl := v.setWidth 32 } }
  | .crcr => .ok (loadCrcr v s)
  | .dcbaap => .ok (loadDcbaap v s)
  | .config => .ok { s with op := { s.op with config := v.setWidth 32 } }
  | .opOther _ => .ok s
  | .doorbell i => .ok { s with hc := ringDoorbell s.cfg.layout s.hc i (v.setWidth 32) }
  | .caplength => .error .capabilityWrite
  | .capReserved => .error .capabilityWrite
  | .hciversion => .error .capabilityWrite
  | .hcsparams1 => .error .capabilityWrite
  | .hcsparams2 => .error .capabilityWrite
  | .hcsparams3 => .error .capabilityWrite
  | .hccparams1 => .error .capabilityWrite
  | .dboff => .error .capabilityWrite
  | .rtsoff => .error .capabilityWrite
  | .hccparams2 => .error .capabilityWrite

/-! ### One volatile access (R11, R80) -/

/-- The low and high words of a word. -/
def loWord (v : Word64) : Word64 := v &&& 0xFFFFFFFF#64
def hiWord (v : Word64) : Word64 := v >>> 32
def joinWords (lo hi : Word64) : Word64 := loWord lo ||| (hi <<< 32)

/-- Where the two halves of a 64-bit word stand (R75, R91). -/
def Loc.lo : Loc → Loc
  | .dma a => .dma a
  | .reg r => .regLo r
  | l => l

def Loc.hi : Loc → Loc
  | .dma a => .dma (a + 4)
  | .reg r => .regHi r
  | l => l

/-- The value at a location of `n` bytes and the state after reading it. -/
def State.readLoc (s : State) (n : Nat) : Loc → Except Refusal (Word64 × State)
  | .dma a => .ok (s.mem.readWord a n, s)
  | .reg r => s.readReg r
  | .regLo r =>
    match s.readReg r with
    | .ok (v, s') => .ok (loWord v, s')
    | .error e => .error e
  | .regHi r =>
    match s.readReg r with
    | .ok (v, s') => .ok (hiWord v, s')
    | .error e => .error e

/-- The state after writing `n` bytes at a location. The low half of a 64-bit register is stored without
effect: the controller acts on the register after the second write (R91). -/
def State.writeLoc (s : State) (n : Nat) (v : Word64) : Loc → Except Refusal State
  | .dma a => .ok { s with mem := s.mem.writeWord a n v }
  | .reg r => s.writeReg v r
  | .regLo .crcr => .ok { s with op := { s.op with crcr := joinWords v (hiWord s.op.crcr) } }
  | .regLo .dcbaap => .ok { s with op := { s.op with dcbaap := joinWords v (hiWord s.op.dcbaap) } }
  | .regLo r => s.writeReg v r
  | .regHi .crcr => .ok (loadCrcr (joinWords s.op.crcr v) s)
  | .regHi .dcbaap => .ok (loadDcbaap (joinWords s.op.dcbaap v) s)
  | .regHi r => s.writeReg v r

/-! ### Programs of accesses -/

/-- What one access or one update of private state does: it is done, with an answer; the agent has no step, because
a status bit is not yet as awaited (R275) or because a lock is held (R85); the operation is refused; it is fatal. -/
inductive Act where
  | done (s : State) (v : Val)
  | hold (on : Option Awaited)
  | refuse (why : Refusal)
  | fatal (code : FatalCode)

/-- An operation as the sequence of its accesses and private updates, each chosen from the answers of
those before it (R14 "Pseudocode", R80, R329). -/
inductive Prog where
  | ret (r : Result)
  | act (m : State → Act) (k : Val → Prog)
  | fatal (code : FatalCode)
  | refuse (why : Refusal)

/-- Run an operation to its end, or to a hold, with no other agent in between. `answers` are the answers
so far, kept so that a held operation can go on. -/
def run (i : Instr) : Prog → List Val → State → State
  | .ret r, _, s => s.finish r
  | .fatal c, _, s => raiseFatal c s
  | .refuse r, _, s => raiseRefusal r s
  | .act m k, answers, s =>
    match m s with
    | .done s' v => run i (k v) (answers ++ [v]) s'
    | .hold on => s.suspend i answers on
    | .refuse r => raiseRefusal r s
    | .fatal c => raiseFatal c s

/-- What is left of an operation after the answers so far. -/
def feed : Prog → List Val → Prog
  | p, [] => p
  | .act _ k, v :: vs => feed (k v) vs
  | .ret r, _ :: _ => .ret r
  | .fatal c, _ :: _ => .fatal c
  | .refuse r, _ :: _ => .refuse r

/-- The operation ends, if nothing is left to access; else it stays in progress. -/
def settle (i : Instr) (answers : List Val) (s : State) : Prog → State
  | .ret r => s.finish r
  | .fatal c => raiseFatal c s
  | .refuse r => raiseRefusal r s
  | .act _ _ => s.suspend i answers none

/-- One access of an operation (R329), with what is left of it. -/
def runOne (i : Instr) (answers : List Val) (s : State) : Prog → State
  | .ret r => s.finish r
  | .fatal c => raiseFatal c s
  | .refuse r => raiseRefusal r s
  | .act m k =>
    match m s with
    | .done s' v => settle i (answers ++ [v]) s' (k v)
    | .hold on => s.suspend i answers on
    | .refuse r => raiseRefusal r s
    | .fatal c => raiseFatal c s

/-- The fatal an operation comes to in a state, with no other agent in between, if it comes to one. -/
def foresee : Prog → State → Option FatalCode
  | .ret _, _ => none
  | .fatal c, _ => some c
  | .refuse _, _ => none
  | .act m k, s =>
    match m s with
    | .done s' v => foresee (k v) s'
    | .hold _ => none
    | .refuse _ => none
    | .fatal c => some c

/-- "The checks that can raise a fatal come before the operation's writes" (R300, R312, D23): the fatal that `p`
would come to is raised before `p` does anything (log 37). -/
def precise (p : Prog) : Prog :=
  .act
    (fun s =>
      match foresee p s with
      | some c => .fatal c
      | none => .done s .unit)
    fun _ => p

/-- The guard of a CPU agent (R37, R300, R306): after a fatal or a refusal it has no further step. -/
def guarded (s : State) (next : State) : Host.Outcome State Fault Refusal :=
  match s.faulted with
  | some c => .fault (.fatal c)
  | none =>
    match s.refused with
    | some r => .refused r
    | none => .next next

/-- The meaning of operation `i` whose accesses are `p`: all of them, in program order. -/
def runOp (i : Instr) (p : Prog) (s : State) : Host.Outcome State Fault Refusal :=
  guarded s (run i p [] s)

/-! ### The accesses operations are made of -/

def Val.toWord : Val → Word64
  | .word w => w
  | _ => 0

def Val.toFlag : Val → Bool
  | .flag b => b
  | _ => false

/-- One volatile read of `n` bytes (R11). -/
def readOnce (l : Loc) (n : Nat) (k : Word64 → Prog) : Prog :=
  .act
    (fun s =>
      match s.readLoc n l with
      | .ok (v, s') => .done (s'.log .read l n v) (.word v)
      | .error e => .refuse e)
    fun v => k v.toWord

/-- One volatile write of `n` bytes (R11). -/
def writeOnce (l : Loc) (n : Nat) (v : Word64) (k : Prog) : Prog :=
  .act
    (fun s =>
      match s.writeLoc n v l with
      | .ok s' => .done (s'.log .write l n (v &&& maskOf (8 * n))) .unit
      | .error e => .refuse e)
    fun _ => k

/-- Which of the two forms of a 64-bit access the configuration takes (R79, D10). -/
def askSplit (k : Bool → Prog) : Prog :=
  .act (fun s => .done s (.flag s.cfg.split64)) fun v => k v.toFlag

/-- A read of a word of `n` bytes: one access, or for 8 bytes under `SPLIT64` two, low word first. -/
def readWord (l : Loc) (n : Nat) (k : Word64 → Prog) : Prog :=
  if n = 8 then
    askSplit fun split =>
      if split then readOnce l.lo 4 fun lo => readOnce l.hi 4 fun hi => k (joinWords lo hi)
      else readOnce l 8 k
  else readOnce l n k

/-- A write of a word of `n` bytes, likewise. -/
def writeWord (l : Loc) (n : Nat) (v : Word64) (k : Prog) : Prog :=
  if n = 8 then
    askSplit fun split =>
      if split then writeOnce l.lo 4 (loWord v) (writeOnce l.hi 4 (hiWord v) k)
      else writeOnce l 8 v k
  else writeOnce l n v k

/-- `read_bits(shift, width)` on a word of `n` bytes (R143, R145). -/
def readBitsAt (l : Loc) (n shift width : Nat) (k : Word64 → Prog) : Prog :=
  if 8 * n < shift + width then .fatal .bitRange
  else readWord l n fun v => k (readSpan shift width v)

/-- `write_bits(shift, width, value)` on a word of `n` bytes: one read, then one write (R144, R145). -/
def writeBitsAt (l : Loc) (n shift width : Nat) (value : Word64) (k : Prog) : Prog :=
  if 8 * n < shift + width then .fatal .bitRange
  else readWord l n fun old => writeWord l n (writeSpan (8 * n) shift width old value) k

/-- `await <bit> = b`: the read that finds it so is the step; until then the agent has none (R275). -/
def await (r : Reg) (bit : Nat) (b : Bool) (k : Prog) : Prog :=
  .act
    (fun s =>
      match s.readReg r with
      | .ok (v, s') =>
        if v.getLsbD bit = b then .done (s'.log .read (.reg r) 4 v) .unit
        else .hold (some { reg := r, bit := bit, value := b })
      | .error e => .refuse e)
    fun _ => k

/-- Whether the awaited bit is not yet as awaited. -/
def Awaited.unmet (a : Awaited) (s : State) : Bool :=
  match s.readReg a.reg with
  | .ok (v, _) => v.getLsbD a.bit != a.value
  | .error _ => false

/-- `acquire(l)` (R85): a lock that is held is a hold, also for the agent that holds it (U22). -/
def acquire (l : LockId) (k : Prog) : Prog :=
  .act
    (fun s =>
      match s.lock? l with
      | some .free => .done (s.setLock l (.held s.agent)) .unit
      | some (.held _) => .hold none
      | none => .refuse .noSuchObject)
    fun _ => k

/-- `release(l)` (R85); the lock of a Transfer Ring is that of the ring that stands at the place now (DESIGN CHOICE,
log 45). -/
def release (l : LockId) (k : Prog) : Prog := .act (fun s => .done (s.setLock l .free) .unit) fun _ => k

/-- A private update of the state (R329). -/
def update (f : State → State) (k : Prog) : Prog := .act (fun s => .done (f s) .unit) fun _ => k

def Val.toRing : Val → RingBuf
  | .ring r => r
  | _ => { phys := 0, index := 0 }

/-- The Ring Buffer `r` as it stands now; a ring that has not been constructed is refused (log 30). An operation names
its ring by its place and looks it up at each step: if the other CPU agent drops the ring and constructs another in its
place in the middle of the operation, of which the spec says nothing, the rest acts on the new one (DESIGN CHOICE,
log 45). -/
def getRing (r : RingId) (k : RingBuf → Prog) : Prog :=
  .act
    (fun s =>
      match s.ring? r with
      | some b => .done s (.ring b)
      | none => .refuse .noSuchObject)
    fun v => k v.toRing

/-- `cycle_state_ours` of an owner, as it stands now (log 45). -/
def getCso (o : RingOwner) (k : Bool → Prog) : Prog :=
  .act
    (fun s =>
      match s.cso? o with
      | some b => .done s (.flag b)
      | none => .refuse .noSuchObject)
    fun v => k v.toFlag

def Val.toTransfer : Val → TransferRing
  | .transfer t => t
  | _ => { ring := { phys := 0, index := 0 }, deq := 0, cso := false, buffers := [], lock := .free }

/-- Transfer Ring `j`, the ring that stands at place `j` now. R232 is silent on what the rest of an operation acts on
after the other CPU agent, in the middle of it, has dropped Transfer Ring `j` and constructed a new one at `j`, or has
replaced it by `TransferRing::new`: the model looks the ring up by its place at each step, so the rest goes on with the
new ring and `release` frees the new ring's lock; what it read before, addresses, records, cursors and flags, stays that
of the old ring (DESIGN CHOICE, log 45). -/
def getTransfer (j : Nat) (k : TransferRing → Prog) : Prog :=
  .act
    (fun s =>
      match s.transferRing? j with
      | some t => .done s (.transfer t)
      | none => .refuse .noSuchObject)
    fun v => k v.toTransfer

def Val.toParams : Val → Params
  | .params p => p
  | _ =>
    { layout := .standard, trTransferLen := 0, mmioBase := 0, split64 := false, dataIoc := false, dataIsp := false,
      statusIoc := false, numDoorbells := 0 }

/-- The configuration record. -/
def getParams (k : Params → Prog) : Prog := .act (fun s => .done s (.params s.cfg)) fun v => k v.toParams

/-- A free word. -/
def drawWord (k : Word64 → Prog) : Prog := .act (fun s => .done s.draw.2 (.word s.draw.1)) fun v => k v.toWord

/-- A condition on the state, refused by name when it does not hold. -/
def require (c : State → Bool) (why : Refusal) (k : Prog) : Prog :=
  .act (fun s => if c s then .done s .unit else .refuse why) fun _ => k

/-- A ring operation runs under the lock of a Transfer Ring, "the whole ring is wrapped in a
mutual-exclusion lock" (R229, log 23); the other rings have none (R59, R250). -/
def lockRing (r : RingId) (k : Prog) : Prog :=
  match r with
  | .transfer j => acquire (.ring j) k
  | .command | .event | .bare _ => k

def unlockRing (r : RingId) (k : Prog) : Prog :=
  match r with
  | .transfer j => release (.ring j) k
  | .command | .event | .bare _ => k

/-! ### Allocation (R290 to R296) -/

/-- `[a, a + n)` and `[b, b + m)` have no address in common. -/
def apart (a n b m : Nat) : Bool := decide (a + n ≤ b) || decide (b + m ≤ a)

/-- Base of the Operational block (R45, R260). -/
def opBase (s : State) : Nat := s.cfg.mmioBase.toNat + s.cap.caplength.toNat

/-- Base of the Doorbell block: `MMIO_BASE + (DBOFF & ~0x3)` (R44, R260). -/
def dbBase (s : State) : Nat :=
  let unit := 2 ^ s.cfg.layout.doorbellOffset
  s.cfg.mmioBase.toNat + s.cap.dboff.toNat / unit * unit

/-- A field of a register (R143). -/
def fieldOf (f : Span) (v : Word32) : Nat := (readField f (v.setWidth 64)).toNat

/-- Bytes of the Operational block: 0x400 and 16 a port (R51, R90). -/
def opSize (s : State) : Nat :=
  let l := s.cfg.layout
  l.ports + l.portBytes * fieldOf l.maxPorts s.cap.hcsparams1

/-- Bytes of the Doorbell block (R52, R90). -/
def dbSize (s : State) : Nat := s.cfg.layout.doorbellBytes

/-- What R90 fixes of the platform: the Capability block holds its registers, and the three register blocks do not
overlap; and that `MMIO_BASE` and `CAPLENGTH` are aligned, so that the Operational base is 8-aligned and every register
lies at a multiple of its width (R76; that the "aligned" of D35 means 8 is DEDUCED, log 32). A launch is one of the
block only if this holds. -/
def blocksPlaced (s : State) : Bool :=
  decide (s.cfg.mmioBase.toNat % s.cfg.layout.capAlign = 0) &&
    decide (s.cfg.layout.capBytes ≤ s.cap.caplength.toNat) &&
    decide (s.cap.caplength.toNat % s.cfg.layout.capAlign = 0) &&
    apart s.cfg.mmioBase.toNat s.cap.caplength.toNat (opBase s) (opSize s) &&
    apart s.cfg.mmioBase.toNat s.cap.caplength.toNat (dbBase s) (dbSize s) &&
    apart (opBase s) (opSize s) (dbBase s) (dbSize s)

/-- Whether the allocator may answer `p`: aligned, inside the 64-bit space, disjoint from every live
allocation and from the three register blocks (R290). -/
def admissible (s : State) (size align : Nat) (p : Addr) : Bool :=
  decide (p.toNat % align = 0) && decide (p.toNat + size ≤ 2 ^ 64) &&
    s.allocs.all (fun a => apart p.toNat size a.base.toNat a.size) &&
    apart p.toNat size s.cfg.mmioBase.toNat s.cap.caplength.toNat &&
    apart p.toNat size (opBase s) (opSize s) && apart p.toNat size (dbBase s) (dbSize s)

/-- `Pinned::new(size, align)` (R290): the allocator's answer is a free word; an answer that is not
admissible is the allocator declining (log 15). The block is zeroed (R292). `align` is already the
larger of the type's alignment and PAGE (R293). -/
def allocate (size align : Nat) (kind : AllocKind) (k : Addr → Prog) : Prog :=
  .act
    (fun s =>
      let p := s.draw.1
      if admissible s size align p then
        .done
          { s.draw.2 with
            mem := s.mem.clear p.toNat size
            allocs := { base := p, size := size, kind := kind } :: s.allocs }
          (.word p)
      else .fatal .dmaAlloc)
    fun v => k v.toWord

/-- The byte at `a` belongs to the allocation. -/
def Alloc.has (l : Alloc) (a : Nat) : Bool := decide (l.base.toNat ≤ a) && decide (a < l.base.toNat + l.size)

/-! What the controller may hold the address of (R295, R368; log 49): "an allocation's address lives on in `CRCR`,
`DCBAAP`, Link and Normal TRBs, DCBAA entries and HC's hidden pointers". A completed reset recalls every address (R346). -/

/-- The addresses that stand in a block the controller can reach: the `param` of each record of a ring, each entry of
the DCBAA. -/
def addressWords (s : State) (l : Alloc) : List Addr :=
  match l.kind with
  | .ring => (List.range (l.size / Config.trbSize)).map fun i => s.mem.readWord (slotAt l.base i) 8
  | .dcbaa => (List.range (l.size / 8)).map fun i => s.mem.readWord (l.base + BitVec.ofNat 64 (8 * i)) 8
  | .buffer | .other => []

/-- One of the addresses lies in the block. -/
def Alloc.named (l : Alloc) (as : List Addr) : Bool := as.any fun a => l.has a.toNat

/-- The addresses reached from `as` through the blocks `ls`, in at most `n` rounds; each block is read once. -/
def reachFrom (s : State) : Nat → List Alloc → List Addr → List Addr
  | 0, _, as => as
  | n + 1, ls, as =>
    let found := ls.partition fun l => l.named as
    reachFrom s n found.2 (found.1.flatMap (addressWords s) ++ as)

/-- Every address the controller may hold: those it knows, those of the records it has fetched, and those it reaches
from them through live rings and the DCBAA. -/
def reachable (s : State) : List Addr :=
  reachFrom s s.allocs.length s.allocs
    (s.hc.held.flatMap (fun h => [h.addr, h.trb.param]) ++ s.hc.known)

/-- The controller may hold an address in the block (R295, R368). -/
def inReach (s : State) (l : Alloc) : Bool := l.named (reachable s)

/-- The allocations of dropped owners are freed. Where the controller may hold the address of one, it goes on to hold it
(R295); a block dropped after a completed reset, and not given to the controller since, is out of its reach (R346,
R368). -/
def freeAllocs (bases : List Addr) (s : State) : State :=
  { s with
    allocs := s.allocs.filter fun a => !bases.contains a.base
    stale := s.allocs.filter (fun a => bases.contains a.base && inReach s a) ++ s.stale }

/-- The blocks an owner holds: a Transfer Ring its ring and its 15 buffers (R232), any other its own one. -/
def ownedBlocks (o : Owned) (s : State) : List Addr :=
  match o with
  | .ring (.transfer k) =>
    match s.transferRing? k with
    | some t => t.ring.phys :: t.buffers
    | none => []
  | .ring .command => (s.cmdRing.map (·.ring.phys)).toList
  | .ring .event => (s.eventRing.map (·.ring.phys)).toList
  | .ring (.bare k) => ((s.ring? (.bare k)).map (·.phys)).toList
  | .pinned k => ((s.pinnedBuf? k).map (·.phys)).toList
  | .dcbaa => s.dcbaa.toList

/-- `[a, a + n)` lies inside one live allocation. -/
def insideLive (s : State) (a : Addr) (n : Nat) : Bool :=
  s.allocs.any fun l => decide (l.base.toNat ≤ a.toNat) && decide (a.toNat + n ≤ l.base.toNat + l.size)

/-- `[a, a + n)` lies inside one freed block whose address the controller may still hold (R295). -/
def insideStale (s : State) (a : Addr) (n : Nat) : Bool :=
  s.stale.any fun l => decide (l.base.toNat ≤ a.toNat) && decide (a.toNat + n ≤ l.base.toNat + l.size)

end Sys2Proof.Machine
end

