-- ==== Sys2Proof/Machine/Operands.lean ====
section
/-! DEFINITION. The operand forms: the storage word an accessor wraps, resolved through the register layout
(R41 to R52, R55) or the live allocations (R71, R78) with the access rights of R54; a TRB given as a
value or as a slot; the records moved into and out of a slot (R176, R177); the layout's field positions
(R148). -/

namespace Sys2Proof.Machine

open Sys2Proof

/-! ### The register layout (R41 to R52, R55; log 25) -/

/-- The Capability registers: offset, register, storage width in bytes (R41 to R44). -/
def capTable (l : Layout) : List (Nat × Reg × Nat) :=
  [(l.caplength, .caplength, 1), (l.capReserved, .capReserved, 1), (l.hciversion, .hciversion, 2),
   (l.hcsparams1, .hcsparams1, 4), (l.hcsparams2, .hcsparams2, 4), (l.hcsparams3, .hcsparams3, 4),
   (l.hccparams1, .hccparams1, 4), (l.dboff, .dboff, 4), (l.rtsoff, .rtsoff, 4), (l.hccparams2, .hccparams2, 4)]

/-- The Operational registers (R46 to R51). The upper halves of the two 64-bit registers are no registers of
their own: an access there has the wrong width (R78). -/
def opTable (l : Layout) : List (Nat × Reg × Nat) :=
  [(l.usbcmd, .usbcmd, 4), (l.usbsts, .usbsts, 4), (l.pagesize, .pagesize, 4), (l.dnctrl, .dnctrl, 4),
   (l.crcr, .crcr, 8), (l.crcr + 4, .crcr, 8), (l.dcbaap, .dcbaap, 8), (l.dcbaap + 4, .dcbaap, 8),
   (l.config, .config, 4)]

/-- The Capability register at an offset and its storage width in bytes. -/
def capReg (l : Layout) (off : Nat) : Option (Reg × Nat) := (capTable l).lookup off

/-- The Operational register at an offset and its storage width; `size` is the size of the block. The reserved
ranges and the port register sets are 32-bit words at 4-aligned offsets: R51 and R55 give them no width
(DESIGN CHOICE, log 19). -/
def opReg (l : Layout) (size off : Nat) : Option (Reg × Nat) :=
  match (opTable l).lookup off with
  | some r => some r
  | none => if off % 4 = 0 ∧ off < size then some (.opOther off, 4) else none

/-- The Doorbell register at an offset (R52). -/
def dbReg (l : Layout) (count off : Nat) : Option (Reg × Nat) :=
  if off % l.doorbellStride = 0 ∧ off / l.doorbellStride < count then
    some (.doorbell (off / l.doorbellStride), 4)
  else none

/-- The register at a block's offset. -/
def regAt (s : State) (b : Block) (off : Nat) : Option (Reg × Nat) :=
  match b with
  | .cap => capReg s.cfg.layout off
  | .op => opReg s.cfg.layout (opSize s) off
  | .db => dbReg s.cfg.layout s.cfg.numDoorbells off

/-- Storage width of the word at offset `off` of an allocation (R78): a record is `param` 8, `status` 4,
`control` 4; a DCBAA entry is 8; `none` where any width is a word of its own (data buffers). -/
def storageWidth (kind : AllocKind) (off : Nat) : Option Nat :=
  match kind with
  | .ring => if off % 16 < 8 then some 8 else some 4
  | .dcbaa => some 8
  | .buffer => none
  | .other => none

/-- What a word is used for: an access that reads it, writes it, or both (`write_bits`). -/
structure Use where
  reads : Bool
  writes : Bool
  deriving DecidableEq, Repr

/-- R54, R306: a Doorbell register is not read, a Capability register not written. -/
def refusedUse (u : Use) : Reg → Option Refusal
  | .doorbell _ => if u.reads then some .doorbellRead else none
  | .caplength | .capReserved | .hciversion | .hcsparams1 | .hcsparams2 | .hcsparams3 | .hccparams1
  | .dboff | .rtsoff | .hccparams2 => if u.writes then some .capabilityWrite else none
  | .usbcmd | .usbsts | .pagesize | .dnctrl | .crcr | .dcbaap | .config | .opOther _ => none

/-- The location of a storage word, or why the access is refused (R71, R72, R77, R78, R306). R54's table gives software
only "read" on the data buffers of a Transfer Ring, R294 lets software read and write the bytes of every allocation, and
`90_conflicts.md` does not name the point: a raw write into a live data buffer is not refused and stores (DESIGN CHOICE,
log 47). -/
def resolve (s : State) (u : Use) : WordRef → Except Refusal Loc
  | .dma a n =>
    if ¬(n = 1 ∨ n = 2 ∨ n = 4 ∨ n = 8) then .error .wrongWidth
    else if a.toNat % n ≠ 0 then .error .misaligned
    else
      match s.allocs.find? (fun l =>
        decide (l.base.toNat ≤ a.toNat) && decide (a.toNat + n ≤ l.base.toNat + l.size)) with
      | none => .error .outsideAllocation
      | some l =>
        match storageWidth l.kind (a.toNat - l.base.toNat) with
        | none => .ok (.dma a)
        | some w => if n = w then .ok (.dma a) else .error .wrongWidth
  | .mmio b off n =>
    if ¬(n = 1 ∨ n = 2 ∨ n = 4 ∨ n = 8) then .error .wrongWidth
    else if off % n ≠ 0 then .error .misaligned
    else
      match regAt s b off with
      | none => .error .noRegister
      | some (r, w) =>
        if n ≠ w then .error .wrongWidth
        else
          match refusedUse u r with
          | some e => .error e
          | none => .ok (.reg r)

def Val.toLoc : Val → Loc
  | .loc l => l
  | _ => .reg .usbcmd

/-- Bytes of a storage word. -/
def wordSize : WordRef → Nat
  | .dma _ n => n
  | .mmio _ _ n => n

/-- Resolve a storage word first: a refusal takes precedence over a fatal of the same call (R311). -/
def withWord (w : WordRef) (u : Use) (k : Loc → Prog) : Prog :=
  .act
    (fun s =>
      match resolve s u w with
      | .ok l => .done s (.loc l)
      | .error e => .refuse e)
    fun v => k v.toLoc

/-! ### Records in slots -/

/-- `store(slot, t)` at a slot's address (R176): read the present cycle bit, then `param`, `status`, and
`control` with the old cycle bit. -/
def storeTrb (a : Addr) (t : Trb) (k : Prog) : Prog :=
  readBitsAt (.dma (a + 12)) 4 0 1 fun c =>
    writeWord (.dma a) 8 t.param
      (writeWord (.dma (a + 8)) 4 (t.status.setWidth 64)
        (writeWord (.dma (a + 12)) 4 ((withCycle t.control (c.getLsbD 0)).setWidth 64) k))

/-- `load(slot)` at a slot's address (R177): `control` first, then `param` and `status`. -/
def loadTrb (a : Addr) (k : Trb → Prog) : Prog :=
  readWord (.dma (a + 12)) 4 fun control =>
    readWord (.dma a) 8 fun param =>
      readWord (.dma (a + 8)) 4 fun status =>
        k { param := param, status := status.setWidth 32, control := control.setWidth 32 }

/-- The address of slot `i` of ring `r`, under the ring's lock; an index outside the ring is fatal
(R191). -/
def atSlot (r : RingId) (i : Nat) (k : Addr → Prog) : Prog :=
  lockRing r
    (getRing r fun b => if Config.ringLen ≤ i then .fatal .ringIndex else k (slotAt b.phys i))

/-- An accessor's result: of a value at once; of a slot, from the words it needs, each read once
(R150). -/
def ofTrb (t : TrbSrc) (ofValue : Trb → Result) (ofSlot : Addr → (Result → Prog) → Prog) : Prog :=
  match t with
  | .value v => .ret (ofValue v)
  | .slot r i => atSlot r i fun a => ofSlot a fun res => unlockRing r (.ret res)

/-- A field of the control word of a slot. -/
def controlField (shift width : Nat) (f : Word64 → Result) (a : Addr) (k : Result → Prog) : Prog :=
  readBitsAt (.dma (a + 12)) 4 shift width fun v => k (f v)

/-! ### Operand widths (R306) -/

/-- An operand wider than declared is refused before anything else (R311). -/
def needs (ok : Bool) (why : Refusal) (k : Prog) : Prog := if ok then k else .refuse why

end Sys2Proof.Machine
end

