-- ==== Sys2Proof/Machine/Bitfield.lean ====
section
/-! DEFINITION. The Bitfield Register Accessor (spec/40_bitfield.md). -/

namespace Sys2Proof.Machine

open Sys2Proof

/-- `read()` (R141): exactly one access of the word. -/
def progRead (w : WordRef) : Prog :=
  withWord w { reads := true, writes := false } fun l => readWord l (wordSize w) fun v => .ret (.word v)

/-- `write(v)` (R142): one access, all bits replaced. -/
def progWrite (w : WordRef) (v : Word64) : Prog :=
  withWord w { reads := false, writes := true } fun l => writeWord l (wordSize w) v (.ret .unit)

/-- `read_bits(shift, width)` (R143, R145). -/
def progReadBits (w : WordRef) (shift width : Nat) : Prog :=
  withWord w { reads := true, writes := false } fun l =>
    readBitsAt l (wordSize w) shift width fun v => .ret (.word v)

/-- `write_bits(shift, width, value)` (R144, R145). -/
def progWriteBits (w : WordRef) (shift width : Nat) (value : Word64) : Prog :=
  withWord w { reads := true, writes := true } fun l => writeBitsAt l (wordSize w) shift width value (.ret .unit)

def execRead (w : WordRef) (s : State) : Host.Outcome State Fault Refusal :=
  runOp (.read w) (progRead w) s

def execWrite (w : WordRef) (v : Word64) (s : State) : Host.Outcome State Fault Refusal :=
  runOp (.write w v) (progWrite w v) s

def execReadBits (w : WordRef) (shift width : Nat) (s : State) : Host.Outcome State Fault Refusal :=
  runOp (.readBits w shift width) (progReadBits w shift width) s

def execWriteBits (w : WordRef) (shift width : Nat) (value : Word64) (s : State) :
    Host.Outcome State Fault Refusal :=
  runOp (.writeBits w shift width value) (progWriteBits w shift width value) s

end Sys2Proof.Machine
end

