-- ==== Sys2Proof/Machine/Codec.lean ====
section
/-! DEFINITION. The TRB Codec (spec/41_trb_codec.md): constructors, accessors, `store` and `load`, with the
record values of spec/30_encoding.md rules R106 to R114 and the composite of R124. -/

namespace Sys2Proof.Machine

open Sys2Proof

/-! ### Record values -/

/-- TC, control bit 1 (R102). -/
def tcBit : Word32 := oneBit 1

/-- `type << 10` (R103). -/
def typeBits (code : BitVec 6) : Word32 := code.setWidth 32 <<< 10

/-- The Normal TRB (R106, R152). -/
def normalTrb (l : Layout) (buf : Addr) (len : BitVec 17) : Trb where
  param := buf
  status := (putField l.transferLength (len.setWidth 64)).setWidth 32
  control := typeBits 1 ||| oneBit l.ioc ||| oneBit l.isp

/-- The Link TRB to a ring's base (R107, R153). -/
def linkTrb (base : Addr) : Trb where
  param := base
  status := 0
  control := typeBits 6 ||| tcBit

/-- The Transfer Type of a setup packet (R110): the direction is bit 7 of `bmRequestType`. -/
def transferType (bmRequestType : BitVec 8) (wLength : BitVec 16) : BitVec 2 :=
  if wLength = 0 then 0 else if bmRequestType.getLsbD 7 then 3 else 2

/-- The Setup Stage TRB (R109, R111, R154). -/
def setupTrb (l : Layout) (bm br : BitVec 8) (wv wi wl : BitVec 16) : Trb where
  param :=
    putField l.setupRequestType (bm.setWidth 64) ||| putField l.setupRequest (br.setWidth 64) |||
      putField l.setupValue (wv.setWidth 64) ||| putField l.setupIndex (wi.setWidth 64) |||
      putField l.setupLength (wl.setWidth 64)
  status := (putField l.transferLength (BitVec.ofNat 64 l.setupBytes)).setWidth 32
  control :=
    typeBits (l.codeOf 2) ||| oneBit l.idt |||
      (putField l.trt ((transferType bm wl).setWidth 64)).setWidth 32

/-- The Data Stage TRB (R112, R155, R156): `DATA_STAGE_INT` comes from the configuration (D6). -/
def dataTrb (c : Params) (dirIn : Bool) (buf : Addr) (len : BitVec 17) : Trb where
  param := buf
  status := (putField c.layout.transferLength (len.setWidth 64)).setWidth 32
  control :=
    typeBits (c.layout.codeOf 3) ||| (if c.dataIoc then oneBit c.layout.ioc else 0) |||
      (if c.dataIsp then oneBit c.layout.isp else 0) ||| (if dirIn then oneBit c.layout.dir else 0)

/-- The Status Stage TRB (R113, R157, R158). -/
def statusTrb (c : Params) (dirIn : Bool) : Trb where
  param := 0
  status := 0
  control :=
    typeBits (c.layout.codeOf 4) ||| (if c.statusIoc then oneBit c.layout.ioc else 0) |||
      (if dirIn then oneBit c.layout.dir else 0)

/-- The generic command record (R114, R159 to R163). -/
def commandTrb (type : BitVec 6) (slot : BitVec 8) (param : Word64) : Trb where
  param := param
  status := 0
  control := typeBits type ||| (slot.setWidth 32 <<< 24)

/-- The records of one USB control transfer (R124): Setup Stage, the Data Stage if there is data, and a
Status Stage in the direction opposite to the data, IN when there is none. -/
def controlTransfer (c : Params) (bm br : BitVec 8) (wv wi wl : BitVec 16) (buf : Addr) : List Trb :=
  let setup := setupTrb c.layout bm br wv wi wl
  if transferType bm wl = 0 then [setup, statusTrb c true]
  else if transferType bm wl = 3 then [setup, dataTrb c true buf (wl.setWidth 17), statusTrb c false]
  else [setup, dataTrb c false buf (wl.setWidth 17), statusTrb c true]

/-! ### Constructors -/

def progNormalTrbNew (l : Layout) (buf len : Nat) : Prog :=
  needs (fits 64 buf && fits 17 len) .operandWidth
    (.ret (.trb (normalTrb l (BitVec.ofNat 64 buf) (BitVec.ofNat 17 len))))

/-- `trb_link(ring)` (R153): the target is the base of the ring given. -/
def progTrbLink (r : RingId) : Prog := getRing r fun b => .ret (.trb (linkTrb b.phys))

def progSetupStageTrbNew (l : Layout) (bm br wv wi wl : Nat) : Prog :=
  needs (fits 8 bm && fits 8 br && fits 16 wv && fits 16 wi && fits 16 wl) .operandWidth
    (.ret
      (.trb
        (setupTrb l (BitVec.ofNat 8 bm) (BitVec.ofNat 8 br) (BitVec.ofNat 16 wv) (BitVec.ofNat 16 wi)
          (BitVec.ofNat 16 wl))))

def progDataStageTrbNew (dirIn : Bool) (buf len : Nat) : Prog :=
  needs (fits 64 buf && fits 17 len) .operandWidth
    (getParams fun c => .ret (.trb (dataTrb c dirIn (BitVec.ofNat 64 buf) (BitVec.ofNat 17 len))))

def progStatusStageTrbNew (dirIn : Bool) : Prog := getParams fun c => .ret (.trb (statusTrb c dirIn))

/-- `CommandTrb::new` (R159): a type outside 9 to 25 is refused. -/
def progCommandTrbNew (type slot param : Nat) : Prog :=
  needs (decide (9 ≤ type) && decide (type ≤ 25)) .commandType
    (needs (fits 8 slot && fits 64 param) .operandWidth
      (.ret (.trb (commandTrb (BitVec.ofNat 6 type) (BitVec.ofNat 8 slot) (BitVec.ofNat 64 param)))))

/-! ### Accessors (R164 to R174) -/

def progCycleBitState (t : TrbSrc) : Prog :=
  ofTrb t (fun v => .flag (trbCycle v)) (controlField 0 1 fun w => .flag (w.getLsbD 0))

/-- `set_cycle_state(slot, b)` (R165): one read and one write of the control word. -/
def progSetCycleState (r : RingId) (i : Nat) (b : Bool) : Prog :=
  atSlot r i fun a => writeBitsAt (.dma (a + 12)) 4 0 1 (bit b) (unlockRing r (.ret .unit))

def progTrbType (t : TrbSrc) : Prog :=
  ofTrb t (fun v => .word ((trbTypeOf v).setWidth 64)) (controlField 10 6 .word)

def progSlotId (t : TrbSrc) : Prog :=
  ofTrb t (fun v => .word ((trbSlotId v).setWidth 64)) (controlField 24 8 .word)

def progData (t : TrbSrc) : Prog :=
  ofTrb t (fun v => .word v.param) fun a k => readWord (.dma a) 8 fun v => k (.word v)

def progToggleCycle (t : TrbSrc) : Prog :=
  ofTrb t (fun v => .flag (trbToggle v)) (controlField 1 1 fun w => .flag (w.getLsbD 0))

def progCompletionCode (l : Layout) (t : TrbSrc) : Prog :=
  ofTrb t (fun v => .word (trbCompletionCode l v)) fun a k =>
    readBitsAt (.dma (a + 8)) 4 l.completionCode.shift l.completionCode.width fun v => k (.word v)

/-- Which length field a record type has (R170): an event's, a transfer TRB's, or none that the spec
states. A Link (type 6) is counted among the transfer TRBs here (DESIGN CHOICE, log 24). -/
inductive LengthField where
  | event
  | transfer
  | unstated
  deriving DecidableEq, Repr

/-- The length field of a type code (R170). Whether a Link (type 6) is one of R170's "transfer TRBs" the spec
leaves open: R106 to R113 (D36, D37) list it among the transfer TRBs, R104 writes "transfer TRBs and Link"
where it speaks of the variant bits. The model takes `status[16:0]` for a Link (DESIGN CHOICE, log 24). -/
def lengthField (l : Layout) (code : BitVec 6) : LengthField :=
  match classOf l code with
  | .event _ => .event
  | .normal | .setupStage | .dataStage | .statusStage | .isoch | .link | .eventData | .noOp => .transfer
  | .command _ | .reserved _ | .vendor _ => .unstated

/-- `transfer_length` from a status word (R170): `status[23:0]` for events, `status[16:0]` for transfer
TRBs, a Link with them by the model's choice; for other types the spec states no length and the value is free
(log 24). -/
def lengthOf (l : Layout) (f : LengthField) (status : Word64) (k : Word64 → Prog) : Prog :=
  match f with
  | .event => k (readField l.eventLength status)
  | .transfer => k (readField l.transferLength status)
  | .unstated => drawWord k

/-- `transfer_length` (R170). Applied to a slot it makes two reads, the control word for the type and then the
status word: the spec gives no slot form of it, and R150's one access is to "the word needed" (DESIGN CHOICE,
log 24). -/
def progTransferLength (l : Layout) (t : TrbSrc) : Prog :=
  match t with
  | .value v => lengthOf l (lengthField l (trbTypeOf v)) (v.status.setWidth 64) fun w => .ret (.word w)
  | .slot r i =>
    atSlot r i fun a =>
      readBitsAt (.dma (a + 12)) 4 10 6 fun code =>
        readWord (.dma (a + 8)) 4 fun status =>
          lengthOf l (lengthField l (code.setWidth 6)) status fun w => unlockRing r (.ret (.word w))

def progClassify (l : Layout) (t : TrbSrc) : Prog :=
  ofTrb t (fun v => .cls (classOf l (trbTypeOf v)))
    (controlField 10 6 fun w => .cls (classOf l (w.setWidth 6)))

/-! ### Moving a value into and out of a slot -/

def progStore (r : RingId) (i : Nat) (t : Trb) : Prog :=
  atSlot r i fun a => storeTrb a t (unlockRing r (.ret .unit))

def progLoad (r : RingId) (i : Nat) : Prog :=
  atSlot r i fun a => loadTrb a fun t => unlockRing r (.ret (.trb t))

/-! ### Meanings -/

def execNormalTrbNew (buf len : Nat) (s : State) : Host.Outcome State Fault Refusal :=
  runOp (.normalTrbNew buf len) (progNormalTrbNew s.cfg.layout buf len) s

def execTrbLink (r : RingId) (s : State) : Host.Outcome State Fault Refusal :=
  runOp (.trbLink r) (progTrbLink r) s

def execSetupStageTrbNew (bm br wv wi wl : Nat) (s : State) : Host.Outcome State Fault Refusal :=
  runOp (.setupStageTrbNew bm br wv wi wl) (progSetupStageTrbNew s.cfg.layout bm br wv wi wl) s

def execDataStageTrbNewIn (buf len : Nat) (s : State) : Host.Outcome State Fault Refusal :=
  runOp (.dataStageTrbNewIn buf len) (progDataStageTrbNew true buf len) s

def execDataStageTrbNewOut (buf len : Nat) (s : State) : Host.Outcome State Fault Refusal :=
  runOp (.dataStageTrbNewOut buf len) (progDataStageTrbNew false buf len) s

def execStatusStageTrbNewIn (s : State) : Host.Outcome State Fault Refusal :=
  runOp .statusStageTrbNewIn (progStatusStageTrbNew true) s

def execStatusStageTrbNewOut (s : State) : Host.Outcome State Fault Refusal :=
  runOp .statusStageTrbNewOut (progStatusStageTrbNew false) s

def execCommandTrbNew (type slot param : Nat) (s : State) : Host.Outcome State Fault Refusal :=
  runOp (.commandTrbNew type slot param) (progCommandTrbNew type slot param) s

def execCycleBitState (t : TrbSrc) (s : State) : Host.Outcome State Fault Refusal :=
  runOp (.cycleBitState t) (progCycleBitState t) s

def execSetCycleState (r : RingId) (i : Nat) (b : Bool) (s : State) : Host.Outcome State Fault Refusal :=
  runOp (.setCycleState r i b) (progSetCycleState r i b) s

def execTrbType (t : TrbSrc) (s : State) : Host.Outcome State Fault Refusal :=
  runOp (.trbType t) (progTrbType t) s

def execSlotId (t : TrbSrc) (s : State) : Host.Outcome State Fault Refusal :=
  runOp (.slotId t) (progSlotId t) s

def execData (t : TrbSrc) (s : State) : Host.Outcome State Fault Refusal :=
  runOp (.data t) (progData t) s

def execToggleCycle (t : TrbSrc) (s : State) : Host.Outcome State Fault Refusal :=
  runOp (.toggleCycle t) (progToggleCycle t) s

def execCompletionCode (t : TrbSrc) (s : State) : Host.Outcome State Fault Refusal :=
  runOp (.completionCode t) (progCompletionCode s.cfg.layout t) s

def execTransferLength (t : TrbSrc) (s : State) : Host.Outcome State Fault Refusal :=
  runOp (.transferLength t) (progTransferLength s.cfg.layout t) s

def execClassify (t : TrbSrc) (s : State) : Host.Outcome State Fault Refusal :=
  runOp (.classify t) (progClassify s.cfg.layout t) s

def execStore (r : RingId) (i : Nat) (t : Trb) (s : State) : Host.Outcome State Fault Refusal :=
  runOp (.store r i t) (progStore r i t) s

def execLoad (r : RingId) (i : Nat) (s : State) : Host.Outcome State Fault Refusal :=
  runOp (.load r i) (progLoad r i) s

end Sys2Proof.Machine
end

