-- ==== Sys2Proof/Machine/RingBuffer.lean ====
section
/-! DEFINITION. The Ring Buffer (spec/42_ring_buffer.md): construction, slot access, the two advances,
`reset`, the Link slot and the passing of it. -/

namespace Sys2Proof.Machine

open Sys2Proof

/-! ### The ring's own procedures -/

/-- `advance_index(new_cycle)` (R192): fatal if the slot at the cursor already holds `newCycle`, before
anything is written; else its cycle bit becomes `newCycle` and the cursor moves on. -/
def advance (r : RingId) (newCycle : Bool) (k : Prog) : Prog :=
  getRing r fun b =>
    readBitsAt (.dma (controlAt b.phys b.index.val)) 4 0 1 fun c =>
      if c.getLsbD 0 = newCycle then .fatal .cycleUnchanged
      else
        writeBitsAt (.dma (controlAt b.phys b.index.val)) 4 0 1 (bit newCycle)
          (update (fun s => s.moveIndex r (b.index + 1)) k)

/-- `advance_index_notoggle(cycle_ours)` (R193): fatal if the slot's cycle bit is not `ours`; no memory is
written. -/
def advanceNotoggle (r : RingId) (ours : Bool) (k : Prog) : Prog :=
  getRing r fun b =>
    readBitsAt (.dma (controlAt b.phys b.index.val)) 4 0 1 fun c =>
      if c.getLsbD 0 = ours then update (fun s => s.moveIndex r (b.index + 1)) k
      else .fatal .cycleMismatch

/-- Clear the cycle bits of `n` slots from slot `i` on, ascending (R194). -/
def clearCycles (base : Addr) : Nat → Nat → Prog → Prog
  | 0, _, k => k
  | n + 1, i, k => writeBitsAt (.dma (controlAt base i)) 4 0 1 0 (clearCycles base n (i + 1) k)

/-- `reset()` (R194, R343): the cursor becomes 0 and every slot's cycle bit 0; nothing else changes. -/
def resetRing (r : RingId) (k : Prog) : Prog :=
  getRing r fun b => update (fun s => s.setIndex r 0) (clearCycles b.phys Config.ringLen 0 k)

/-- `set_link_trb()` at a ring's base (R197): slot `N-1` becomes the Link to slot 0. -/
def storeLink (base : Addr) (k : Prog) : Prog := storeTrb (slotAt base Config.usable) (linkTrb base) k

/-- `skip_link` (R198): if the cursor stands on a Link TRB, the Link itself is handed over and
`cycle_state_ours` flips. -/
def passLink (o : RingOwner) (k : Prog) : Prog :=
  getRing (ownerRing o) fun b =>
    readBitsAt (.dma (controlAt b.phys b.index.val)) 4 10 6 fun ty =>
      if ty = 6 then
        getCso o fun c => advance (ownerRing o) (!c) (update (fun s => s.flipCso o) k)
      else k

/-! ### Keeping what a constructor makes -/

/-- Entry `k` of a list, or a new last entry. -/
def putAt {α : Type} (l : List (Option α)) (k : Nat) (v : α) : List (Option α) :=
  if k < l.length then l.set k (some v) else l ++ [some v]

/-- Keep a new Ring Buffer at `place`; what stood there is dropped and its block freed (R295, log 14). The Event Ring starts with `cycle_state_ours` = true (R246). -/
def installRing (place : RingPlace) (p : Addr) (s : State) : State :=
  match place with
  | .bare k =>
    let s1 := freeAllocs (ownedBlocks (.ring (.bare k)) s) s
    { s1 with bareRings := putAt s.bareRings k { phys := p, index := 0 } }
  | .event =>
    let s1 := freeAllocs (ownedBlocks (.ring .event) s) s
    { s1 with eventRing := some { ring := { phys := p, index := 0 }, cso := true, unread := 0 } }

/-- Whether a place for a new object exists: the next one, or one that is empty or to be replaced. -/
def placeOk (place : RingPlace) (s : State) : Bool :=
  match place with
  | .bare k => decide (k ≤ s.bareRings.length)
  | .event => true

/-! ### Operations -/

/-- `TrbRing::new()` (R190). -/
def progTrbRingNew (place : RingPlace) : Prog :=
  require (placeOk place) .noSuchObject
    (allocate Config.ringBytes (max Config.trbSize Config.page) .ring fun p =>
      update (installRing place p) (.ret (.region p Config.ringBytes)))

/-- `slot(i)` (R191). -/
def progSlot (r : RingId) (i : Nat) : Prog := atSlot r i fun _ => unlockRing r (.ret (.slotRef r i))

/-- `slot_addr(i)` (R191). -/
def progSlotAddr (r : RingId) (i : Nat) : Prog := atSlot r i fun a => unlockRing r (.ret (.word a))

def progAdvanceIndex (r : RingId) (newCycle : Bool) : Prog :=
  lockRing r (advance r newCycle (unlockRing r (.ret .unit)))

def progAdvanceIndexNotoggle (r : RingId) (ours : Bool) : Prog :=
  lockRing r (advanceNotoggle r ours (unlockRing r (.ret .unit)))

def progTrbRingReset (k : Nat) : Prog := resetRing (.bare k) (.ret .unit)

/-- `current()` (R195), and the inspection of a Transfer Ring's dequeue cursor and flag (R230, log 38); none makes an
access to DMA-visible memory. -/
def progCurrent (c : Inspected) : Prog :=
  match c with
  | .slot r => lockRing r (getRing r fun b => unlockRing r (.ret (.slotRef r b.index.val)))
  | .dequeue k =>
    acquire (.ring k)
      (getTransfer k fun t => release (.ring k) (.ret (.slotRef (.transfer k) t.deq.val)))
  | .flag k => acquire (.ring k) (getTransfer k fun t => release (.ring k) (.ret (.flag t.cso)))

/-- `phys_addr()` (R196). -/
def progTrbRingPhysAddr (r : RingId) : Prog :=
  lockRing r (getRing r fun b => unlockRing r (.ret (.word b.phys)))

def progSetLinkTrb (r : RingId) : Prog :=
  lockRing r (getRing r fun b => storeLink b.phys (unlockRing r (.ret .unit)))

def progSkipLink (o : RingOwner) : Prog :=
  lockRing (ownerRing o) (passLink o (unlockRing (ownerRing o) (.ret .unit)))

/-! ### Meanings -/

def execTrbRingNew (place : RingPlace) (s : State) : Host.Outcome State Fault Refusal :=
  runOp (.trbRingNew place) (progTrbRingNew place) s

def execSlot (r : RingId) (i : Nat) (s : State) : Host.Outcome State Fault Refusal :=
  runOp (.slot r i) (progSlot r i) s

def execSlotAddr (r : RingId) (i : Nat) (s : State) : Host.Outcome State Fault Refusal :=
  runOp (.slotAddr r i) (progSlotAddr r i) s

def execAdvanceIndex (r : RingId) (newCycle : Bool) (s : State) : Host.Outcome State Fault Refusal :=
  runOp (.advanceIndex r newCycle) (progAdvanceIndex r newCycle) s

def execAdvanceIndexNotoggle (r : RingId) (ours : Bool) (s : State) : Host.Outcome State Fault Refusal :=
  runOp (.advanceIndexNotoggle r ours) (progAdvanceIndexNotoggle r ours) s

def execTrbRingReset (k : Nat) (s : State) : Host.Outcome State Fault Refusal :=
  runOp (.trbRingReset k) (progTrbRingReset k) s

def execCurrent (c : Inspected) (s : State) : Host.Outcome State Fault Refusal :=
  runOp (.current c) (progCurrent c) s

def execTrbRingPhysAddr (r : RingId) (s : State) : Host.Outcome State Fault Refusal :=
  runOp (.trbRingPhysAddr r) (progTrbRingPhysAddr r) s

def execSetLinkTrb (r : RingId) (s : State) : Host.Outcome State Fault Refusal :=
  runOp (.setLinkTrb r) (progSetLinkTrb r) s

def execSkipLink (o : RingOwner) (s : State) : Host.Outcome State Fault Refusal :=
  runOp (.skipLink o) (progSkipLink o) s

end Sys2Proof.Machine
end

