-- ==== Sys2Proof/Machine/Rings.lean ====
section
/-! DEFINITION. The Command Ring (spec/43_command_ring.md), the Transfer Ring (spec/44_transfer_ring.md)
and the Event Ring's consumer side (spec/45_event_ring.md). -/

namespace Sys2Proof.Machine

open Sys2Proof

/-! ### Command Ring -/

/-- Keep a new Command Ring; there is exactly one (R27), so one that stood there is dropped (log 14). -/
def installCommandRing (p : Addr) (s : State) : State :=
  let s1 := freeAllocs (ownedBlocks (.ring .command) s) s
  { s1 with cmdRing := some { ring := { phys := p, index := 0 }, cso := false } }

/-- `CommandRing::new()` (R211). -/
def progCommandRingNew : Prog :=
  allocate Config.ringBytes (max Config.trbSize Config.page) .ring fun p =>
    storeLink p (update (installCommandRing p) (.ret (.region p Config.ringBytes)))

/-- `CommandRing::reset()` (R212): the ring and the flag together, in one operation. -/
def progCommandRingReset : Prog :=
  resetRing .command (update (fun s => s.setCso .command false) (.ret .unit))

/-- `CommandRing::phys_addr()` (R213). -/
def progCommandRingPhysAddr : Prog := getRing .command fun b => .ret (.word b.phys)

/-- `crcr_value()` (R117, R213): the base with bit 0, the Consumer Ring Cycle State, set. -/
def progCrcrValue : Prog := getRing .command fun b => .ret (.word (b.phys ||| 1#64))

/-- `push(t)` (R214): store, publish by `advance_index(not cso)`, pass the Link; the result is the
command's physical address. A fatal of either hand-over leaves the state before the operation (R300). R214 declares
`t` a TRB of `CommandTrb::new` and says nothing of another; the model runs these lines for every TRB, a Link too
(DESIGN CHOICE, log 41). -/
def progPush (t : Trb) : Prog :=
  precise
    (getRing .command fun b =>
      storeTrb (slotAt b.phys b.index.val) t
        (getCso .command fun c =>
          advance .command (!c)
            (passLink .command (.ret (.word (slotAt b.phys b.index.val))))))

/-! ### Transfer Ring -/

/-- Allocate `n` data buffers (R226). -/
def allocBuffers : Nat → List Addr → (List Addr → Prog) → Prog
  | 0, acc, k => k acc
  | n + 1, acc, k => allocate Config.bufSize Config.page .buffer fun b => allocBuffers n (acc ++ [b]) k

/-- Store the Normal TRB that points at its buffer into each slot from slot `i` on (R226). -/
def storeBuffers (l : Layout) (base : Addr) (len : BitVec 17) : Nat → List Addr → Prog → Prog
  | _, [], k => k
  | i, b :: bs, k => storeTrb (slotAt base i) (normalTrb l b len) (storeBuffers l base len (i + 1) bs k)

/-- Keep a new Transfer Ring as number `k`; one that stood there is dropped with its buffers (R232,
R295, R346, log 14). -/
def installTransferRing (k : Nat) (p : Addr) (bufs : List Addr) (s : State) : State :=
  let s1 := freeAllocs (ownedBlocks (.ring (.transfer k)) s) s
  { s1 with
    transferRings :=
      putAt s.transferRings k
        { ring := { phys := p, index := 0 }, deq := 0, cso := false, buffers := bufs, lock := .free } }

/-- `TransferRing::new()` (R226): every allocation before the first record is stored, so that `F_DMA_ALLOC` comes
before the operation's writes (R13, R300); blocks it has allocated by then stay (R296; log 37). -/
def progTransferRingNew (k : Nat) : Prog :=
  getParams fun c =>
    needs (decide (c.trTransferLen ≤ Config.bufSize)) .transferLen
      (require (fun s => decide (k ≤ s.transferRings.length)) .noSuchObject
        (allocate Config.ringBytes (max Config.trbSize Config.page) .ring fun p =>
          allocBuffers Config.usable [] fun bufs =>
            storeBuffers c.layout p (BitVec.ofNat 17 c.trTransferLen) 0 bufs
              (storeLink p (update (installTransferRing k p bufs) (.ret (.region p Config.ringBytes))))))

/-- `(D - next) mod N` with `next = (E + 1) mod N`, never negative (R125, R227). -/
def fillDistance (d : Fin 15) (e : Fin 16) : Nat :=
  (d.val + Config.ringLen - (e.val + 1) % Config.ringLen) % Config.ringLen

/-- The loop of `fill_ring` (R227), at most `n` rounds; the exit distance of a ring that stays is reached within `N`.
Where the other CPU agent replaces ring `j` in the middle of it, the rounds made on the old ring are counted with those
on the new one, and the loop may end after `N` rounds with the new ring's exit distance not reached (DESIGN CHOICE,
log 45). -/
def fillLoop (j : Nat) : Nat → Prog → Prog
  | 0, k => k
  | n + 1, k =>
    getTransfer j fun t =>
      if fillDistance t.deq t.ring.index < Config.fillMargin then k
      else advance (.transfer j) (!t.cso) (passLink (.transfer j) (fillLoop j n k))

/-- `fill_ring()` (R227, R229). A fatal of a later round leaves the state before the operation (R300). -/
def progFillRing (j : Nat) : Prog :=
  acquire (.ring j) (precise (fillLoop j Config.ringLen (release (.ring j) (.ret .unit))))

/-- `dequeue_trb(expected)` (R228, R229): check, advance the dequeue cursor, re-arm one slot at the
enqueue cursor, pass the Link. A fatal of either hand-over finds `D` advanced and nothing else changed (R228,
R300). Where the other CPU agent replaces ring `j` in the middle of it, `D + 1` of the old ring is written into the new
one, whose slot is handed over with the cycle bit that the old ring's flag chose (DESIGN CHOICE, log 45). -/
def progDequeueTrb (j : Nat) (expected : Addr) : Prog :=
  acquire (.ring j)
    (getTransfer j fun t =>
      if slotAt t.ring.phys t.deq.val ≠ expected then .fatal .dequeueAddr
      else
        update (fun s => s.setDeq j (t.deq + 1))
          (precise
            (advance (.transfer j) (!t.cso)
              (passLink (.transfer j) (release (.ring j) (.ret .unit))))))

/-! ### Event Ring -/

/-- The Event Ring's `cycle_state_ours` (R245). -/
def getEventCso (k : Bool → Prog) : Prog :=
  .act
    (fun s =>
      match s.eventRing with
      | some e => .done s (.flag e.cso)
      | none => .refuse .noSuchObject)
    fun v => k v.toFlag

def State.setEventCso (s : State) (b : Bool) : State :=
  { s with eventRing := s.eventRing.map fun e => { e with cso := b } }

/-- `ER.cso <- not ER.cso` (R248): one update, of the flag as it stands then (R329). -/
def State.flipEventCso (s : State) : State :=
  match s.eventRing with
  | some e => s.setEventCso (!e.cso)
  | none => s

/-- What `ER.reset()` does beside the reset of the Ring Buffer: our cycle bit is 1 again, and events posted and not
yet popped are lost (R246, R347). -/
def State.restartEvents (s : State) : State :=
  { s with eventRing := s.eventRing.map fun e => { e with cso := true, unread := 0 } }

/-- `ER.reset()` (R246). -/
def progEventRingReset : Prog := resetRing .event (update State.restartEvents (.ret .unit))

/-- `has_event()` (R247): one read of the control word at the cursor. R247's one line gives no order between that read and
the one of `ER.cso`, and a handler's `pop` can run between the two (R318): the model reads the cursor, then the flag, then
the control word (DESIGN CHOICE, log 48). -/
def progHasEvent : Prog :=
  getRing .event fun b =>
    getEventCso fun c =>
      readBitsAt (.dma (controlAt b.phys b.index.val)) 4 0 1 fun v => .ret (.flag (v.getLsbD 0 == c))

/-- `pop()` (R248): load, confirm without writing, flip `cycle_state_ours` when the cursor wraps. `load` reads the
control word first, then `param` and `status`; where the cycle bit it read is not ours, the other words are not used
(R82, R177): the three reads have been made and it is `F_CYCLE_MISMATCH` (R311), `pop()` having been "called while
`has_event()` is false" (R248). `advance_index_notoggle` then reads and tests the control word again, as its own lines
say (R193). That `pop()` tests `load`'s cycle bit, which R248's lines leave to `advance_index_notoggle`, is how the model
reads R82, R177, R248 and R311 together (DEDUCED, log 44). -/
def progPop : Prog :=
  getRing .event fun b =>
    loadTrb (slotAt b.phys b.index.val) fun t =>
      getEventCso fun c =>
        if trbCycle t ≠ c then .fatal .cycleMismatch
        else
          advanceNotoggle .event c
            (getRing .event fun b' =>
              if b'.index = 0 then update State.flipEventCso (.ret (.trb t)) else .ret (.trb t))

/-! ### Meanings -/

def execCommandRingNew (s : State) : Host.Outcome State Fault Refusal :=
  runOp .commandRingNew progCommandRingNew s

def execCommandRingReset (s : State) : Host.Outcome State Fault Refusal :=
  runOp .commandRingReset progCommandRingReset s

def execCommandRingPhysAddr (s : State) : Host.Outcome State Fault Refusal :=
  runOp .commandRingPhysAddr progCommandRingPhysAddr s

def execCrcrValue (s : State) : Host.Outcome State Fault Refusal := runOp .crcrValue progCrcrValue s

def execPush (t : Trb) (s : State) : Host.Outcome State Fault Refusal := runOp (.push t) (progPush t) s

def execTransferRingNew (k : Nat) (s : State) : Host.Outcome State Fault Refusal :=
  runOp (.transferRingNew k) (progTransferRingNew k) s

def execFillRing (k : Nat) (s : State) : Host.Outcome State Fault Refusal :=
  runOp (.fillRing k) (progFillRing k) s

def execDequeueTrb (k : Nat) (expected : Addr) (s : State) : Host.Outcome State Fault Refusal :=
  runOp (.dequeueTrb k expected) (progDequeueTrb k expected) s

def execEventRingReset (s : State) : Host.Outcome State Fault Refusal :=
  runOp .eventRingReset progEventRingReset s

def execHasEvent (s : State) : Host.Outcome State Fault Refusal := runOp .hasEvent progHasEvent s

def execPop (s : State) : Host.Outcome State Fault Refusal := runOp .pop progPop s

end Sys2Proof.Machine
end

