-- ==== Sys2Proof/Machine/Mmio.lean ====
section
/-! DEFINITION. The operations on the register blocks (spec/46_mmio_blocks.md) and the two register words
of spec/30_encoding.md rules R116 and R117. The constant spans are those of R148. -/

namespace Sys2Proof.Machine

open Sys2Proof

/-- `MaxSlots` (R42, R256). -/
def progMaxDeviceSlots (l : Layout) : Prog :=
  readBitsAt (.reg .hcsparams1) 4 l.maxSlots.shift l.maxSlots.width fun v => .ret (.word v)

/-- `MaxIntrs` (R42, R257). -/
def progMaxInterrupters (l : Layout) : Prog :=
  readBitsAt (.reg .hcsparams1) 4 l.maxIntrs.shift l.maxIntrs.width fun v => .ret (.word v)

/-- `MaxPorts` (R42, R258). -/
def progMaxPorts (l : Layout) : Prog :=
  readBitsAt (.reg .hcsparams1) 4 l.maxPorts.shift l.maxPorts.width fun v => .ret (.word v)

/-- The scratchpad-buffer count (R118, R259): two reads, the high half first. -/
def progMaxScratchpadBuffers (l : Layout) : Prog :=
  readBitsAt (.reg .hcsparams2) 4 l.scratchpadHi.shift l.scratchpadHi.width fun hi =>
    readBitsAt (.reg .hcsparams2) 4 l.scratchpadLo.shift l.scratchpadLo.width fun lo =>
      .ret (.word ((hi <<< l.scratchpadLo.width) ||| lo))

/-- `is_halted()` (R261). -/
def progIsHalted (l : Layout) : Prog :=
  readBitsAt (.reg .usbsts) 4 l.halted 1 fun v => .ret (.flag (v.getLsbD 0))

/-- `reset_xhc()` (R263): clear run/stop, wait until halted, set HC-reset, wait until HC clears it. -/
def progResetXhc (l : Layout) : Prog :=
  writeBitsAt (.reg .usbcmd) 4 l.runStop 1 0
    (await .usbsts l.halted true
      (writeBitsAt (.reg .usbcmd) 4 l.hcReset 1 1 (await .usbcmd l.hcReset false (.ret .unit))))

/-- `start_xhc()` (R264): set run/stop, wait until halted clears. -/
def progStartXhc (l : Layout) : Prog :=
  writeBitsAt (.reg .usbcmd) 4 l.runStop 1 1 (await .usbsts l.halted false (.ret .unit))

/-- `set_dcbaa_ptr(addr)` (R265): one write, no read. -/
def progSetDcbaaPtr (addr : Addr) : Prog := writeWord (.reg .dcbaap) 8 addr (.ret .unit)

/-- `set_cmd_ring_ctrl(value)` (R266): one write, no read; the controller loads its pointer. -/
def progSetCmdRingCtrl (value : Word64) : Prog := writeWord (.reg .crcr) 8 value (.ret .unit)

/-- `set_num_device_slots(n)` (R267): one read and one write of `CONFIG`. -/
def progSetNumDeviceSlots (l : Layout) (n : BitVec 8) : Prog :=
  writeBitsAt (.reg .config) 4 l.maxSlotsEn.shift l.maxSlotsEn.width (n.setWidth 64) (.ret .unit)

/-- One write of a doorbell word under the register's lock (R268). -/
def ringBell (reg : Nat) (w : Word32) : Prog :=
  require (fun s => decide (reg < s.cfg.numDoorbells)) .doorbellIndex
    (acquire (.doorbell reg)
      (writeWord (.reg (.doorbell reg)) 4 (w.setWidth 64) (release (.doorbell reg) (.ret .unit))))

/-- `DB[reg].notify(target, stream_id)` (R268). -/
def progNotify (reg target stream : Nat) : Prog :=
  needs (fits 8 target && fits 16 stream) .operandWidth
    (ringBell reg (dbWord (BitVec.ofNat 8 target) (BitVec.ofNat 16 stream)))

/-- A doorbell word written to its register (R116, R268). -/
def progDbword (reg : Nat) (target : BitVec 8) (stream : BitVec 16) : Prog := ringBell reg (dbWord target stream)

/-- A command-ring-control word written to `CRCR` (R117, R266). -/
def progCrcrword (base : BitVec 58) : Prog := writeWord (.reg .crcr) 8 (crcrWord base) (.ret .unit)

/-! ### Meanings -/

def execMaxDeviceSlots (s : State) : Host.Outcome State Fault Refusal :=
  runOp .maxDeviceSlots (progMaxDeviceSlots s.cfg.layout) s

def execMaxInterrupters (s : State) : Host.Outcome State Fault Refusal :=
  runOp .maxInterrupters (progMaxInterrupters s.cfg.layout) s

def execMaxPorts (s : State) : Host.Outcome State Fault Refusal := runOp .maxPorts (progMaxPorts s.cfg.layout) s

def execMaxScratchpadBuffers (s : State) : Host.Outcome State Fault Refusal :=
  runOp .maxScratchpadBuffers (progMaxScratchpadBuffers s.cfg.layout) s

def execIsHalted (s : State) : Host.Outcome State Fault Refusal := runOp .isHalted (progIsHalted s.cfg.layout) s

def execResetXhc (s : State) : Host.Outcome State Fault Refusal := runOp .resetXhc (progResetXhc s.cfg.layout) s

def execStartXhc (s : State) : Host.Outcome State Fault Refusal := runOp .startXhc (progStartXhc s.cfg.layout) s

def execSetDcbaaPtr (addr : Addr) (s : State) : Host.Outcome State Fault Refusal :=
  runOp (.setDcbaaPtr addr) (progSetDcbaaPtr addr) s

def execSetCmdRingCtrl (value : Word64) (s : State) : Host.Outcome State Fault Refusal :=
  runOp (.setCmdRingCtrl value) (progSetCmdRingCtrl value) s

def execSetNumDeviceSlots (n : BitVec 8) (s : State) : Host.Outcome State Fault Refusal :=
  runOp (.setNumDeviceSlots n) (progSetNumDeviceSlots s.cfg.layout n) s

def execNotify (reg target stream : Nat) (s : State) : Host.Outcome State Fault Refusal :=
  runOp (.notify reg target stream) (progNotify reg target stream) s

def execDbword (reg : Nat) (target : BitVec 8) (stream : BitVec 16) (s : State) :
    Host.Outcome State Fault Refusal :=
  runOp (.dbword reg target stream) (progDbword reg target stream) s

def execCrcrword (base : BitVec 58) (s : State) : Host.Outcome State Fault Refusal :=
  runOp (.crcrword base) (progCrcrword base) s

end Sys2Proof.Machine
end

