-- ==== Sys2Proof/Machine/Pinned.lean ====
section
/-! DEFINITION. The Pinned DMA Memory Primitive and the DCBAA (spec/47_pinned_dma.md), and the DCBAA entry
word (R119 of spec/30_encoding.md). -/

namespace Sys2Proof.Machine

open Sys2Proof

/-- Keep a new bare Pinned buffer as number `k`; one that stood there is dropped (R295, log 14). -/
def installPinned (k : Nat) (p : Addr) (size : Nat) (s : State) : State :=
  let s1 := freeAllocs (ownedBlocks (.pinned k) s) s
  { s1 with pinned := putAt s.pinned k { phys := p, size := size } }

/-- `Pinned::new<T>()` (R290, R293): page-aligned when shared with the controller. -/
def progPinnedNew (k size align : Nat) (shared : Bool) : Prog :=
  needs (decide (0 < size) && decide (0 < align)) .emptyType
    (require (fun s => decide (k ≤ s.pinned.length)) .noSuchObject
      (allocate size (if shared then max align Config.page else align) .other fun p =>
        update (installPinned k p size) (.ret (.region p size))))

/-- The block an owner's handle names. -/
def getRegion (a : AllocRef) (k : Addr → Nat → Prog) : Prog :=
  match a with
  | .pinned j =>
    .act
      (fun s =>
        match s.pinnedBuf? j with
        | some b => .done s (.ring { phys := b.phys, index := 0 })
        | none => .refuse .noSuchObject)
      fun v =>
        .act
          (fun s =>
            match s.pinnedBuf? j with
            | some b => .done s (.word (BitVec.ofNat 64 b.size))
            | none => .refuse .noSuchObject)
          fun n => k v.toRing.phys n.toWord.toNat
  | .ring r => lockRing r (getRing r fun b => unlockRing r (k b.phys Config.ringBytes))
  | .buffer j i =>
    acquire (.ring j)
      (getTransfer j fun t =>
        match t.buffers[i]? with
        | some b => release (.ring j) (k b Config.bufSize)
        | none => .fatal .ringIndex)
  | .dcbaa =>
    .act
      (fun s =>
        match s.dcbaa with
        | some b => .done s (.word b)
        | none => .refuse .noSuchObject)
      fun v => k v.toWord Config.dcbaaBytes

/-- `phys_addr()` (R291): constant for the allocation's lifetime; a buffer index outside the ring is
fatal (R230). -/
def progPinnedPhysAddr (a : AllocRef) : Prog := getRegion a fun p _ => .ret (.word p)

/-- `get_unchecked_mut()` (R294): the right to access the block's bytes, "and nothing more". -/
def progGetUncheckedMut (a : AllocRef) : Prog := getRegion a fun p n => .ret (.region p n)

/-- Keep a new DCBAA (R297); one that stood there is dropped (log 14). -/
def installDcbaa (p : Addr) (s : State) : State :=
  let s1 := freeAllocs (ownedBlocks .dcbaa s) s
  { s1 with dcbaa := some p }

/-- `Dcbaa::new()` (R297). -/
def progDcbaaNew : Prog :=
  allocate Config.dcbaaBytes (max Config.dcbaaAlign Config.page) .dcbaa fun p =>
    update (installDcbaa p) (.ret (.region p Config.dcbaaBytes))

/-- The DCBAA's base. -/
def getDcbaa (k : Addr → Prog) : Prog :=
  .act
    (fun s =>
      match s.dcbaa with
      | some b => .done s (.word b)
      | none => .refuse .noSuchObject)
    fun v => k v.toWord

/-- Address of entry `i` (R35). -/
def entryAt (base : Addr) (i : Nat) : Addr := base + BitVec.ofNat 64 (8 * i)

/-- `set_entry(i, addr)` (R297): one 8-byte write. -/
def progDcbaaSetEntry (i : Nat) (addr : Word64) : Prog :=
  needs (decide (i < Config.dcbaaEntries)) .dcbaaIndex
    (getDcbaa fun b => writeWord (.dma (entryAt b i)) 8 addr (.ret .unit))

/-- `entry(i)` (R297): one 8-byte read. -/
def progDcbaaEntry (i : Nat) : Prog :=
  needs (decide (i < Config.dcbaaEntries)) .dcbaaIndex
    (getDcbaa fun b => readWord (.dma (entryAt b i)) 8 fun v => .ret (.word v))

/-- A DCBAA entry word written to its place (R119, R297). -/
def progDcbaaent (index : Nat) (addr : Word64) : Prog := progDcbaaSetEntry index addr

/-! ### Dropping an owner (R232, R295, R346; log 39) -/

/-- The owner is gone: its place is empty. -/
def clearOwner (o : Owned) (s : State) : State :=
  { s with
    cmdRing := if o = .ring .command then none else s.cmdRing
    eventRing := if o = .ring .event then none else s.eventRing
    dcbaa := if o = .dcbaa then none else s.dcbaa
    transferRings :=
      match o with
      | .ring (.transfer k) => s.transferRings.set k none
      | _ => s.transferRings
    bareRings :=
      match o with
      | .ring (.bare k) => s.bareRings.set k none
      | _ => s.bareRings
    pinned :=
      match o with
      | .pinned k => s.pinned.set k none
      | _ => s.pinned }

/-- Dropping an owner frees its blocks, whose addresses a later `new` may draw again; memory is not touched
(R295). -/
def dropOwner (o : Owned) (s : State) : State := freeAllocs (ownedBlocks o s) (clearOwner o s)

/-! ### Meanings -/

def execPinnedNew (k size align : Nat) (shared : Bool) (s : State) : Host.Outcome State Fault Refusal :=
  runOp (.pinnedNew k size align shared) (progPinnedNew k size align shared) s

def execPinnedPhysAddr (a : AllocRef) (s : State) : Host.Outcome State Fault Refusal :=
  runOp (.pinnedPhysAddr a) (progPinnedPhysAddr a) s

def execGetUncheckedMut (a : AllocRef) (s : State) : Host.Outcome State Fault Refusal :=
  runOp (.getUncheckedMut a) (progGetUncheckedMut a) s

def execDcbaaNew (s : State) : Host.Outcome State Fault Refusal := runOp .dcbaaNew progDcbaaNew s

def execDcbaaSetEntry (i : Nat) (addr : Word64) (s : State) : Host.Outcome State Fault Refusal :=
  runOp (.dcbaaSetEntry i addr) (progDcbaaSetEntry i addr) s

def execDcbaaEntry (i : Nat) (s : State) : Host.Outcome State Fault Refusal :=
  runOp (.dcbaaEntry i) (progDcbaaEntry i) s

def execDcbaaent (index : Nat) (addr : Word64) (s : State) : Host.Outcome State Fault Refusal :=
  runOp (.dcbaaent index addr) (progDcbaaent index addr) s

end Sys2Proof.Machine
end

