-- ==== Sys2Proof/Machine/Controller.lean ====
section
/-! DEFINITION. The controller (spec/60_exceptions.md rules R330 to R337): what it does with a record it has
fetched from a Command Ring or a Transfer Ring, the posting of events, and its register steps. What the
rules leave to it is a free value (log 4). -/

namespace Sys2Proof.Machine

open Sys2Proof

/-! ### The rings the controller knows -/

/-- Pointer and cycle state of a ring the controller consumes (R330). -/
def hcRing? (h : HcHidden) : RingSel → Option HcRing
  | .command => some h.cmd
  | .endpoint k => h.endpoints[k]?.map (·.ring)

def setHcRing (h : HcHidden) (sel : RingSel) (r : HcRing) : HcHidden :=
  match sel with
  | .command => { h with cmd := r }
  | .endpoint k => { h with endpoints := h.endpoints.modify k fun e => { e with ring := r } }

/-- The ring's pending doorbell is cleared (R331). -/
def clearPending (sel : RingSel) (s : State) : State :=
  { s with hc := { s.hc with pending := s.hc.pending.filter fun r => decide (r ≠ sel) } }

/-- Move the pointer of a ring (R331). -/
def moveHcRing (sel : RingSel) (r : HcRing) (s : State) : State := { s with hc := setHcRing s.hc sel r }

/-- Enqueue an event for posting, behind those that wait (R331 to R333). -/
def enqueueEvent (t : Trb) (s : State) : State :=
  { s with hc := { s.hc with unposted := s.hc.unposted ++ [t] } }

/-! ### Events (R115) -/

/-- The control word of an event of type number `kind`: the slot id and the endpoint id given, the bits that R104
and R115 name for no event free, every other bit 0 (R104: bits 8:7 and the rest of 23:16). Bit 0 is set when the
event is posted (R333). -/
def eventControl (l : Layout) (kind : BitVec 6) (slot : BitVec 8) (endpoint : BitVec 5) (free : Word32) : Word32 :=
  (free &&& eventOpaque l) ||| typeBits (l.codeOf kind) |||
    (putField l.endpoint (endpoint.setWidth 64)).setWidth 32 ||| (slot.setWidth 32 <<< 24)

/-- The Command Completion Event of a command at `a` (R115, R331): completion code, completion parameter and
slot id are the controller's, free. -/
def completionEvent (l : Layout) (a : Addr) (free : Word64) : Trb where
  param := a
  status := free.setWidth 32
  control := eventControl l 33 (free.extractLsb' 56 8) 0 (free.extractLsb' 32 32)

/-- The completion code of a transfer with residual `r` (R332): 1 if nothing is left, 13 if something is,
"or another code for an error (opaque)". -/
def transferCode (l : Layout) (r : Nat) (free : Word64) : BitVec 8 :=
  let other : BitVec 8 := free.extractLsb' 0 8
  if free.getLsbD 8 = true ∧ other ≠ l.success ∧ other ≠ l.shortPacket then other
  else if r = 0 then l.success
  else l.shortPacket

/-- The Transfer Event of the transfer TRB at `a` (R115, R332). -/
def transferEventOf (l : Layout) (a : Addr) (residual : Nat) (slot : BitVec 8) (endpoint : BitVec 5)
    (free : Word64) : Trb where
  param := a
  status :=
    (putField l.eventLength (BitVec.ofNat 64 residual) |||
      putField l.completionCode ((transferCode l residual free).setWidth 64)).setWidth 32
  control := eventControl l 32 slot endpoint (free.extractLsb' 32 32)

/-! ### Received data (R332) -/

/-- Whether slot `i` of a Transfer Ring is armed and not yet dequeued: it lies from `D` cyclically up to `E` (R231). -/
def armedSlot (t : TransferRing) (i : Nat) : Bool :=
  let d := t.deq.val
  let e := t.ring.index.val
  if d ≤ e then decide (d ≤ i) && decide (i < e) else decide (d ≤ i) || decide (i < e)

/-- Whether the byte at `a` lies in the buffer of a slot that the controller owns: an armed slot, or the slot at
its pointer `p` (R26, R335, R337). -/
def ownedBuffer (s : State) (p : Addr) (a : Nat) : Bool :=
  s.transferRings.any fun o =>
    match o with
    | none => false
    | some t =>
      (List.range Config.usable).any fun i =>
        (armedSlot t i || decide (slotAt t.ring.phys i = p)) &&
          decide ((t.buffers.getD i 0).toNat ≤ a) && decide (a < (t.buffers.getD i 0).toNat + Config.bufSize)

/-- Whether the controller, executing the record of the slot at `p`, may write the byte at `a`: it lies in a live
allocation (R337), which is a bare buffer, or holds a data buffer of a slot the controller owns (R335, R337); or it
belongs to a freed block whose address the controller may still hold, drawn again or not (R295; U23 of spec/93: R337
binds only while the caller drops nothing that is in reach); log 21, 46. -/
def dataByte (s : State) (p : Addr) (a : Nat) : Bool :=
  s.stale.any (·.has a) ||
    s.allocs.any fun l =>
      l.has a && (decide (l.kind = .other) || (decide (l.kind = .buffer) && ownedBuffer s p a))

/-- How many of the `n` bytes from `a` on the controller may write. -/
def dataRun (s : State) (p : Addr) : Nat → Nat → Nat
  | _, 0 => 0
  | a, n + 1 => if dataByte s p a then dataRun s p (a + 1) n + 1 else 0

/-- A free number from 0 to `bound`. -/
def upTo (bound : Nat) (free : Word64) : Nat := if bound = 0 then 0 else free.toNat % (bound + 1)

/-- Write `n` free bytes from `a` on. -/
def receive : Nat → Nat → State → State
  | _, 0, s => s
  | a, n + 1, s =>
    receive (a + 1) n { s.draw.2 with mem := s.mem.write a (s.draw.1.setWidth 8) }

/-- Whether data comes in through the record's buffer: a Normal TRB (R332), or a Data Stage with `DIR` = 1 (DEDUCED,
log 10); in both only if `param` is a buffer pointer, `IDT` = 0: else "`param` holds the data itself" (R104). -/
def bringsData (l : Layout) (t : Trb) : Bool :=
  (decide (trbTypeOf t = 1) || (decide (l.kindOf (trbTypeOf t) = 3) && trbDir l t)) && !trbIdt l t

/-- The transfer of the record at `p`: how many bytes are transferred, and the state with those that came in. -/
def transferData (t : Trb) (p : Addr) (s : State) : Nat × State :=
  let len := (trbTransferLength s.cfg.layout t).toNat
  let s1 := s.draw.2
  if bringsData s.cfg.layout t then
    let k := upTo (min len (dataRun s1 p t.param.toNat len)) s.draw.1
    (k, receive t.param.toNat k s1)
  else (upTo len s.draw.1, s1)

/-- Whether a record on an endpoint's ring reports (R316, R332): a Normal TRB always; any other transfer TRB with IOC, and
a Data Stage or Isoch with ISP when it completes short (R104; log 10). -/
def reports (l : Layout) (t : Trb) (residual : Nat) : Bool :=
  decide (trbTypeOf t = 1) || trbIoc l t || (trbIsp l t && decide (residual ≠ 0))

/-! ### Consumption -/

/-- A command (R331): the pointer moves on, and a completion is enqueued. The command's own effect, "opaque change to HC
and device state", changes nothing else of the controller's hidden state (DESIGN CHOICE, log 43). -/
def consumeCommand (r : HcRing) (s : State) : State :=
  enqueueEvent (completionEvent s.cfg.layout r.p s.draw.1) (moveHcRing .command { r with p := r.p + 16 } s.draw.2)

/-- The transfer TRB `t` of the slot at `a` is executed for an endpoint (R332): the data, then the pointer, which `move`
moves on, then the event. -/
def executeTransfer (slot : BitVec 8) (endpoint : BitVec 5) (a : Addr) (t : Trb) (move : State → State) (s : State) :
    State :=
  let l := s.cfg.layout
  let d := transferData t a s
  let residual := (trbTransferLength l t).toNat - d.1
  let s1 := move d.2
  if reports l t residual then
    enqueueEvent (transferEventOf l a residual slot endpoint s1.draw.1) s1.draw.2
  else s1

/-- A transfer TRB of endpoint `e`, number `k` (R332), fetched and executed at once. -/
def consumeTransfer (k : Nat) (e : HcEndpoint) (t : Trb) (s : State) : State :=
  executeTransfer e.slot e.endpoint e.ring.p t (moveHcRing (.endpoint k) { e.ring with p := e.ring.p + 16 }) s

/-! ### Records fetched and not yet executed (R295, R332; log 46)

"HC writes the buffer only between fetching the TRB and posting its event. When the transfer happens depends on the USB
device and is unconstrained" (R332): the fetch may be a step of its own, and what software does before the execution,
dropping the ring among it, finds "a Normal TRB it has fetched" (R295) in the controller's hands. -/

/-- Whether the controller holds a record fetched from the slot at the ring's pointer: it is then the next of that ring
to be executed, and nothing else is fetched there. -/
def holdsFrom (h : HcHidden) : RingSel → Bool
  | .command => false
  | .endpoint k => h.held.any fun x => decide (x.owner = some k)

/-- The pointer of the ring that a held record was fetched from moves past its slot (R332). -/
def passHeld (h : HeldTrb) (s : State) : State :=
  match h.owner with
  | none => s
  | some k =>
    match hcRing? s.hc (.endpoint k) with
    | none => s
    | some r => moveHcRing (.endpoint k) { r with p := h.addr + 16 } s

/-- A held record, of the words `t`, is executed (R332). -/
def executeHeld (h : HeldTrb) (t : Trb) (s : State) : State :=
  executeTransfer h.slot h.endpoint h.addr t (passHeld h) s

/-- The held records after endpoint `k` has been given another ring: the endpoint's pointer no longer stands on their
slots (log 36, 46). -/
def detachHeld (k : Nat) (held : List HeldTrb) : List HeldTrb :=
  held.map fun h => if h.owner = some k then { h with owner := none } else h

/-- A Link record (R331): the pointer goes to the target, and TC inverts the cycle state. -/
def followLink (sel : RingSel) (r : HcRing) (t : Trb) (s : State) : State :=
  moveHcRing sel { p := t.param &&& ~~~0xF#64, ccs := if trbToggle t then !r.ccs else r.ccs } s

/-- The consume step on a record fetched from a ring (R331, R332). -/
def hcConsume (sel : RingSel) (t : Trb) (s : State) : State :=
  match hcRing? s.hc sel with
  | none => s
  | some r =>
    if trbCycle t ≠ r.ccs then clearPending sel s
    else if trbTypeOf t = 6 then followLink sel r t s
    else
      match sel with
      | .command => consumeCommand r s
      | .endpoint k =>
        match s.hc.endpoints[k]? with
        | none => s
        | some e => consumeTransfer k e t s

/-! ### Posting (R333) -/

/-- The Event Ring has room: "fewer than `EVENT_RING_LEN` events are unconsumed" (log 28). -/
def eventRoom (e : EventRing) : Bool := decide (e.unread < Config.ringLen)

/-- The producer's next position. -/
def nextProducer (h : HcHidden) : HcHidden :=
  { h with q := h.q + 1, pcs := if h.q + 1 = 0 then !h.pcs else h.pcs }

/-- The post step (R333): content first, `control` with bit 0 = `pcs` last. R245 leaves open how the controller learns
the Event Ring's address: it posts into the Event Ring that stands now, at its `q` and `pcs` as they are, also after a
drop or a second construction, and with no `.bindEventRing` turn (DESIGN CHOICE, log 36). -/
def hcPost (s : State) : State :=
  match s.eventRing, s.hc.unposted with
  | some e, t :: ts =>
    let a := slotAt e.ring.phys s.hc.q.val
    if running s.cfg.layout s.op && eventRoom e && insideLive s a 16 then
      { s with
        mem :=
          ((s.mem.writeWord a 8 t.param).writeWord (a + 8) 4 (t.status.setWidth 64)).writeWord (a + 12) 4
            ((withCycle t.control s.hc.pcs).setWidth 64)
        eventRing := some { e with unread := e.unread + 1 }
        hc := learn [a] { nextProducer s.hc with unposted := ts } }
    else s
  | _, _ => s

/-! ### Register steps (R334) -/

def hcHalt (s : State) : State :=
  let l := s.cfg.layout
  if !runStop l s.op.usbcmd && !hcReset l s.op.usbcmd && !halted l s.op.usbsts then
    { s with op := { s.op with usbsts := s.op.usbsts ||| oneBit l.halted } }
  else s

def hcRun (s : State) : State :=
  let l := s.cfg.layout
  if runStop l s.op.usbcmd && !hcReset l s.op.usbcmd && halted l s.op.usbsts then
    { s with op := { s.op with usbsts := s.op.usbsts &&& ~~~oneBit l.halted } }
  else s

/-- The state with seven free words, for the registers a controller reset leaves unspecified (R273). -/
def drawSeven (s : State) : List Word64 × State :=
  let d0 := s.draw
  let d1 := d0.2.draw
  let d2 := d1.2.draw
  let d3 := d2.2.draw
  let d4 := d3.2.draw
  let d5 := d4.2.draw
  let d6 := d5.2.draw
  ([d0.1, d1.1, d2.1, d3.1, d4.1, d5.1, d6.1], d6.2)

/-- The registers after a controller reset (R273, R344): `HCRST` = 0, `R/S` = 0, `HCH` = 1, all else as
given. -/
def resetRegs (l : Layout) (w : List Word64) : OpRegs where
  usbcmd := (w.getD 0 0).setWidth 32 &&& ~~~(oneBit l.runStop ||| oneBit l.hcReset)
  usbsts := (w.getD 1 0).setWidth 32 ||| oneBit l.halted
  pagesize := (w.getD 2 0).setWidth 32
  dnctrl := (w.getD 3 0).setWidth 32
  crcr := w.getD 4 0
  dcbaap := w.getD 5 0
  config := (w.getD 6 0).setWidth 32

/-- reset-complete: the hidden state and the registers become unspecified (R334, R344), and the controller holds no
address any more (R346): no record fetched before, no address given before and no block freed before is in its reach (log 27, 49). -/
def hcResetComplete (s : State) : State :=
  if hcReset s.cfg.layout s.op.usbcmd then
    let h := s.drawHidden
    let d := drawSeven h.2
    { d.2 with op := resetRegs s.cfg.layout d.1, hc := { h.1 with held := [], known := [] }, stale := [] }
  else s

/-! ### Out-of-scope set-up (R33, R246, R336; log 36) -/

/-- Transfer Ring `k` becomes the ring of an endpoint: `p` is its base and `ccs` is 1. An endpoint the controller already
knows keeps its place and has its earlier ring replaced; a doorbell pending for it stays pending (R350 is silent:
DESIGN CHOICE, log 36), and a record fetched from the earlier ring may still be executed (R295, log 46). -/
def bindEndpoint (slot : BitVec 8) (endpoint : BitVec 5) (k : Nat) (s : State) : State :=
  match s.transferRing? k with
  | none => s
  | some t =>
    let e : HcEndpoint := { slot := slot, endpoint := endpoint, ring := { p := t.ring.phys, ccs := true } }
    let others := s.hc.endpoints
    match others.findIdx? fun x => decide (x.slot = slot) && decide (x.endpoint = endpoint) with
    | some i =>
      { s with hc := learn [t.ring.phys] { s.hc with endpoints := others.set i e, held := detachHeld i s.hc.held } }
    | none => { s with hc := learn [t.ring.phys] { s.hc with endpoints := others ++ [e] } }

/-- The controller is told of the Event Ring: `q` = 0, `pcs` = 1; it holds the address of the ring that stands. -/
def bindEventRing (s : State) : State :=
  { s with hc := learn (ownedBlocks (.ring .event) s) { s.hc with q := 0, pcs := true } }

/-! ### The completion notification (R315, R317, R318) -/

/-- A handler begins, if an event is posted and not consumed and no handler runs. Its operations are the next of the
lists that the driver's handlers run, so that two handlers of a run need not be alike (R6, R315; log 22). It may begin
in the middle of an operation of SW, as R318 says, where decision D24 says only between operations or in an `await`
(DESIGN CHOICE, log 22). -/
def beginHandler (s : State) : State :=
  if s.hasEvent && !s.handlerActive && s.faulted.isNone && s.refused.isNone then
    { s with
      handlerActive := true
      handlerCode := s.handlerCode.tail
      ih := { s.ih with program := s.handlerCode.headD [], current := none } }
  else s

end Sys2Proof.Machine
end

