-- ==== Sys2Proof/Machine/Records.lean ====
section
/-! DEFINITION. The meanings of the 64 record types (R103, R108): a record is executed by its consumer. Held by
software as a value it is decoded by the accessors and the view of its type (R164 to R174); fetched by the
controller from a ring it is consumed (R331, R332). -/

namespace Sys2Proof.Machine

open Sys2Proof

/-- What software does with a record value: the accessors' answers, no access (R150). -/
def recordProg (l : Layout) (kind : BitVec 6) (r : Rec) : Prog := .ret (.record (viewOf l (trbOf l kind r)))

/-- Execute a record of type number `kind` on behalf of whoever holds it (log 9). -/
def consumeRecord (kind : BitVec 6) (r : Rec) (s : State) : Host.Outcome State Fault Refusal :=
  match s.serving with
  | .value => runOp (recordOf kind r) (recordProg s.cfg.layout kind r) s
  | .hc sel => .next (hcConsume sel (trbOf s.cfg.layout kind r) s)
  | .held h => .next (executeHeld h (trbOf s.cfg.layout kind r) s)

def execReserved0 (r : Rec) (s : State) : Host.Outcome State Fault Refusal := consumeRecord 0 r s

def execNormal (r : Rec) (s : State) : Host.Outcome State Fault Refusal := consumeRecord 1 r s

def execSetupStage (r : Rec) (s : State) : Host.Outcome State Fault Refusal := consumeRecord 2 r s

def execDataStage (r : Rec) (s : State) : Host.Outcome State Fault Refusal := consumeRecord 3 r s

def execStatusStage (r : Rec) (s : State) : Host.Outcome State Fault Refusal := consumeRecord 4 r s

def execIsoch (r : Rec) (s : State) : Host.Outcome State Fault Refusal := consumeRecord 5 r s

def execLink (r : Rec) (s : State) : Host.Outcome State Fault Refusal := consumeRecord 6 r s

def execEventData (r : Rec) (s : State) : Host.Outcome State Fault Refusal := consumeRecord 7 r s

def execNoopTransfer (r : Rec) (s : State) : Host.Outcome State Fault Refusal := consumeRecord 8 r s

def execEnableSlotCmd (r : Rec) (s : State) : Host.Outcome State Fault Refusal := consumeRecord 9 r s

def execDisableSlotCmd (r : Rec) (s : State) : Host.Outcome State Fault Refusal := consumeRecord 10 r s

def execAddressDeviceCmd (r : Rec) (s : State) : Host.Outcome State Fault Refusal := consumeRecord 11 r s

def execConfigureEndpointCmd (r : Rec) (s : State) : Host.Outcome State Fault Refusal := consumeRecord 12 r s

def execEvaluateContextCmd (r : Rec) (s : State) : Host.Outcome State Fault Refusal := consumeRecord 13 r s

def execResetEndpointCmd (r : Rec) (s : State) : Host.Outcome State Fault Refusal := consumeRecord 14 r s

def execStopEndpointCmd (r : Rec) (s : State) : Host.Outcome State Fault Refusal := consumeRecord 15 r s

def execSetTrDequeuePointerCmd (r : Rec) (s : State) : Host.Outcome State Fault Refusal := consumeRecord 16 r s

def execResetDeviceCmd (r : Rec) (s : State) : Host.Outcome State Fault Refusal := consumeRecord 17 r s

def execForceEventCmd (r : Rec) (s : State) : Host.Outcome State Fault Refusal := consumeRecord 18 r s

def execNegotiateBandwidthCmd (r : Rec) (s : State) : Host.Outcome State Fault Refusal := consumeRecord 19 r s

def execSetLatencyToleranceValueCmd (r : Rec) (s : State) : Host.Outcome State Fault Refusal := consumeRecord 20 r s

def execGetPortBandwidthCmd (r : Rec) (s : State) : Host.Outcome State Fault Refusal := consumeRecord 21 r s

def execForceHeaderCmd (r : Rec) (s : State) : Host.Outcome State Fault Refusal := consumeRecord 22 r s

def execNoopCmd (r : Rec) (s : State) : Host.Outcome State Fault Refusal := consumeRecord 23 r s

def execGetExtendedPropertyCmd (r : Rec) (s : State) : Host.Outcome State Fault Refusal := consumeRecord 24 r s

def execSetExtendedPropertyCmd (r : Rec) (s : State) : Host.Outcome State Fault Refusal := consumeRecord 25 r s

def execReserved26 (r : Rec) (s : State) : Host.Outcome State Fault Refusal := consumeRecord 26 r s

def execReserved27 (r : Rec) (s : State) : Host.Outcome State Fault Refusal := consumeRecord 27 r s

def execReserved28 (r : Rec) (s : State) : Host.Outcome State Fault Refusal := consumeRecord 28 r s

def execReserved29 (r : Rec) (s : State) : Host.Outcome State Fault Refusal := consumeRecord 29 r s

def execReserved30 (r : Rec) (s : State) : Host.Outcome State Fault Refusal := consumeRecord 30 r s

def execReserved31 (r : Rec) (s : State) : Host.Outcome State Fault Refusal := consumeRecord 31 r s

def execTransferEvent (r : Rec) (s : State) : Host.Outcome State Fault Refusal := consumeRecord 32 r s

def execCommandCompletionEvent (r : Rec) (s : State) : Host.Outcome State Fault Refusal := consumeRecord 33 r s

def execPortStatusChangeEvent (r : Rec) (s : State) : Host.Outcome State Fault Refusal := consumeRecord 34 r s

def execBandwidthRequestEvent (r : Rec) (s : State) : Host.Outcome State Fault Refusal := consumeRecord 35 r s

def execDoorbellEvent (r : Rec) (s : State) : Host.Outcome State Fault Refusal := consumeRecord 36 r s

def execHostControllerEvent (r : Rec) (s : State) : Host.Outcome State Fault Refusal := consumeRecord 37 r s

def execDeviceNotificationEvent (r : Rec) (s : State) : Host.Outcome State Fault Refusal := consumeRecord 38 r s

def execMfindexWrapEvent (r : Rec) (s : State) : Host.Outcome State Fault Refusal := consumeRecord 39 r s

def execReserved40 (r : Rec) (s : State) : Host.Outcome State Fault Refusal := consumeRecord 40 r s

def execReserved41 (r : Rec) (s : State) : Host.Outcome State Fault Refusal := consumeRecord 41 r s

def execReserved42 (r : Rec) (s : State) : Host.Outcome State Fault Refusal := consumeRecord 42 r s

def execReserved43 (r : Rec) (s : State) : Host.Outcome State Fault Refusal := consumeRecord 43 r s

def execReserved44 (r : Rec) (s : State) : Host.Outcome State Fault Refusal := consumeRecord 44 r s

def execReserved45 (r : Rec) (s : State) : Host.Outcome State Fault Refusal := consumeRecord 45 r s

def execReserved46 (r : Rec) (s : State) : Host.Outcome State Fault Refusal := consumeRecord 46 r s

def execReserved47 (r : Rec) (s : State) : Host.Outcome State Fault Refusal := consumeRecord 47 r s

def execVendor48 (r : Rec) (s : State) : Host.Outcome State Fault Refusal := consumeRecord 48 r s

def execVendor49 (r : Rec) (s : State) : Host.Outcome State Fault Refusal := consumeRecord 49 r s

def execVendor50 (r : Rec) (s : State) : Host.Outcome State Fault Refusal := consumeRecord 50 r s

def execVendor51 (r : Rec) (s : State) : Host.Outcome State Fault Refusal := consumeRecord 51 r s

def execVendor52 (r : Rec) (s : State) : Host.Outcome State Fault Refusal := consumeRecord 52 r s

def execVendor53 (r : Rec) (s : State) : Host.Outcome State Fault Refusal := consumeRecord 53 r s

def execVendor54 (r : Rec) (s : State) : Host.Outcome State Fault Refusal := consumeRecord 54 r s

def execVendor55 (r : Rec) (s : State) : Host.Outcome State Fault Refusal := consumeRecord 55 r s

def execVendor56 (r : Rec) (s : State) : Host.Outcome State Fault Refusal := consumeRecord 56 r s

def execVendor57 (r : Rec) (s : State) : Host.Outcome State Fault Refusal := consumeRecord 57 r s

def execVendor58 (r : Rec) (s : State) : Host.Outcome State Fault Refusal := consumeRecord 58 r s

def execVendor59 (r : Rec) (s : State) : Host.Outcome State Fault Refusal := consumeRecord 59 r s

def execVendor60 (r : Rec) (s : State) : Host.Outcome State Fault Refusal := consumeRecord 60 r s

def execVendor61 (r : Rec) (s : State) : Host.Outcome State Fault Refusal := consumeRecord 61 r s

def execVendor62 (r : Rec) (s : State) : Host.Outcome State Fault Refusal := consumeRecord 62 r s

def execVendor63 (r : Rec) (s : State) : Host.Outcome State Fault Refusal := consumeRecord 63 r s

end Sys2Proof.Machine
end

