-- ==== Sys2Proof/Machine/Programs.lean ====
section
/-! DEFINITION. The accesses of every operation, by instruction: what an operation that is in progress goes on
with (R275, R329). -/

namespace Sys2Proof.Machine

open Sys2Proof

/-- The sequence of accesses of an instruction. -/
def progOf (l : Layout) : Instr → Prog
  | .reserved0 r => recordProg l 0 r
  | .normal r => recordProg l 1 r
  | .setupStage r => recordProg l 2 r
  | .dataStage r => recordProg l 3 r
  | .statusStage r => recordProg l 4 r
  | .isoch r => recordProg l 5 r
  | .link r => recordProg l 6 r
  | .eventData r => recordProg l 7 r
  | .noopTransfer r => recordProg l 8 r
  | .enableSlotCmd r => recordProg l 9 r
  | .disableSlotCmd r => recordProg l 10 r
  | .addressDeviceCmd r => recordProg l 11 r
  | .configureEndpointCmd r => recordProg l 12 r
  | .evaluateContextCmd r => recordProg l 13 r
  | .resetEndpointCmd r => recordProg l 14 r
  | .stopEndpointCmd r => recordProg l 15 r
  | .setTrDequeuePointerCmd r => recordProg l 16 r
  | .resetDeviceCmd r => recordProg l 17 r
  | .forceEventCmd r => recordProg l 18 r
  | .negotiateBandwidthCmd r => recordProg l 19 r
  | .setLatencyToleranceValueCmd r => recordProg l 20 r
  | .getPortBandwidthCmd r => recordProg l 21 r
  | .forceHeaderCmd r => recordProg l 22 r
  | .noopCmd r => recordProg l 23 r
  | .getExtendedPropertyCmd r => recordProg l 24 r
  | .setExtendedPropertyCmd r => recordProg l 25 r
  | .reserved26 r => recordProg l 26 r
  | .reserved27 r => recordProg l 27 r
  | .reserved28 r => recordProg l 28 r
  | .reserved29 r => recordProg l 29 r
  | .reserved30 r => recordProg l 30 r
  | .reserved31 r => recordProg l 31 r
  | .transferEvent r => recordProg l 32 r
  | .commandCompletionEvent r => recordProg l 33 r
  | .portStatusChangeEvent r => recordProg l 34 r
  | .bandwidthRequestEvent r => recordProg l 35 r
  | .doorbellEvent r => recordProg l 36 r
  | .hostControllerEvent r => recordProg l 37 r
  | .deviceNotificationEvent r => recordProg l 38 r
  | .mfindexWrapEvent r => recordProg l 39 r
  | .reserved40 r => recordProg l 40 r
  | .reserved41 r => recordProg l 41 r
  | .reserved42 r => recordProg l 42 r
  | .reserved43 r => recordProg l 43 r
  | .reserved44 r => recordProg l 44 r
  | .reserved45 r => recordProg l 45 r
  | .reserved46 r => recordProg l 46 r
  | .reserved47 r => recordProg l 47 r
  | .vendor48 r => recordProg l 48 r
  | .vendor49 r => recordProg l 49 r
  | .vendor50 r => recordProg l 50 r
  | .vendor51 r => recordProg l 51 r
  | .vendor52 r => recordProg l 52 r
  | .vendor53 r => recordProg l 53 r
  | .vendor54 r => recordProg l 54 r
  | .vendor55 r => recordProg l 55 r
  | .vendor56 r => recordProg l 56 r
  | .vendor57 r => recordProg l 57 r
  | .vendor58 r => recordProg l 58 r
  | .vendor59 r => recordProg l 59 r
  | .vendor60 r => recordProg l 60 r
  | .vendor61 r => recordProg l 61 r
  | .vendor62 r => recordProg l 62 r
  | .vendor63 r => recordProg l 63 r
  | .dbword reg target stream => progDbword reg target stream
  | .crcrword base => progCrcrword base
  | .dcbaaent index addr => progDcbaaent index addr
  | .read w => progRead w
  | .write w v => progWrite w v
  | .readBits w shift width => progReadBits w shift width
  | .writeBits w shift width value => progWriteBits w shift width value
  | .normalTrbNew buf len => progNormalTrbNew l buf len
  | .trbLink r => progTrbLink r
  | .setupStageTrbNew bm br wv wi wl => progSetupStageTrbNew l bm br wv wi wl
  | .dataStageTrbNewIn buf len => progDataStageTrbNew true buf len
  | .dataStageTrbNewOut buf len => progDataStageTrbNew false buf len
  | .statusStageTrbNewIn => progStatusStageTrbNew true
  | .statusStageTrbNewOut => progStatusStageTrbNew false
  | .commandTrbNew type slot param => progCommandTrbNew type slot param
  | .cycleBitState t => progCycleBitState t
  | .setCycleState r i b => progSetCycleState r i b
  | .trbType t => progTrbType t
  | .slotId t => progSlotId t
  | .data t => progData t
  | .toggleCycle t => progToggleCycle t
  | .completionCode t => progCompletionCode l t
  | .transferLength t => progTransferLength l t
  | .classify t => progClassify l t
  | .store r i t => progStore r i t
  | .load r i => progLoad r i
  | .trbRingNew place => progTrbRingNew place
  | .slot r i => progSlot r i
  | .slotAddr r i => progSlotAddr r i
  | .advanceIndex r newCycle => progAdvanceIndex r newCycle
  | .advanceIndexNotoggle r ours => progAdvanceIndexNotoggle r ours
  | .trbRingReset k => progTrbRingReset k
  | .current c => progCurrent c
  | .trbRingPhysAddr r => progTrbRingPhysAddr r
  | .setLinkTrb r => progSetLinkTrb r
  | .skipLink o => progSkipLink o
  | .commandRingNew => progCommandRingNew
  | .commandRingReset => progCommandRingReset
  | .commandRingPhysAddr => progCommandRingPhysAddr
  | .crcrValue => progCrcrValue
  | .push t => progPush t
  | .transferRingNew k => progTransferRingNew k
  | .fillRing k => progFillRing k
  | .dequeueTrb k expected => progDequeueTrb k expected
  | .eventRingReset => progEventRingReset
  | .hasEvent => progHasEvent
  | .pop => progPop
  | .maxDeviceSlots => progMaxDeviceSlots l
  | .maxInterrupters => progMaxInterrupters l
  | .maxPorts => progMaxPorts l
  | .maxScratchpadBuffers => progMaxScratchpadBuffers l
  | .isHalted => progIsHalted l
  | .resetXhc => progResetXhc l
  | .startXhc => progStartXhc l
  | .setDcbaaPtr addr => progSetDcbaaPtr addr
  | .setCmdRingCtrl value => progSetCmdRingCtrl value
  | .setNumDeviceSlots n => progSetNumDeviceSlots l n
  | .notify reg target stream => progNotify reg target stream
  | .pinnedNew k size align shared => progPinnedNew k size align shared
  | .pinnedPhysAddr a => progPinnedPhysAddr a
  | .getUncheckedMut a => progGetUncheckedMut a
  | .dcbaaNew => progDcbaaNew
  | .dcbaaSetEntry i addr => progDcbaaSetEntry i addr
  | .dcbaaEntry i => progDcbaaEntry i

end Sys2Proof.Machine
end

