-- ==== Sys2Proof/Machine/Dispatch.lean ====
section
/-! DEFINITION. The meaning of every instruction: one arm per constructor, one call per arm. -/

namespace Sys2Proof.Machine

open Sys2Proof

def exec (i : Instr) (s : State) : Host.Outcome State Fault Refusal :=
  match i with
  | .reserved0 r => Sys2Proof.Machine.execReserved0 r s
  | .normal r => Sys2Proof.Machine.execNormal r s
  | .setupStage r => Sys2Proof.Machine.execSetupStage r s
  | .dataStage r => Sys2Proof.Machine.execDataStage r s
  | .statusStage r => Sys2Proof.Machine.execStatusStage r s
  | .isoch r => Sys2Proof.Machine.execIsoch r s
  | .link r => Sys2Proof.Machine.execLink r s
  | .eventData r => Sys2Proof.Machine.execEventData r s
  | .noopTransfer r => Sys2Proof.Machine.execNoopTransfer r s
  | .enableSlotCmd r => Sys2Proof.Machine.execEnableSlotCmd r s
  | .disableSlotCmd r => Sys2Proof.Machine.execDisableSlotCmd r s
  | .addressDeviceCmd r => Sys2Proof.Machine.execAddressDeviceCmd r s
  | .configureEndpointCmd r => Sys2Proof.Machine.execConfigureEndpointCmd r s
  | .evaluateContextCmd r => Sys2Proof.Machine.execEvaluateContextCmd r s
  | .resetEndpointCmd r => Sys2Proof.Machine.execResetEndpointCmd r s
  | .stopEndpointCmd r => Sys2Proof.Machine.execStopEndpointCmd r s
  | .setTrDequeuePointerCmd r => Sys2Proof.Machine.execSetTrDequeuePointerCmd r s
  | .resetDeviceCmd r => Sys2Proof.Machine.execResetDeviceCmd r s
  | .forceEventCmd r => Sys2Proof.Machine.execForceEventCmd r s
  | .negotiateBandwidthCmd r => Sys2Proof.Machine.execNegotiateBandwidthCmd r s
  | .setLatencyToleranceValueCmd r => Sys2Proof.Machine.execSetLatencyToleranceValueCmd r s
  | .getPortBandwidthCmd r => Sys2Proof.Machine.execGetPortBandwidthCmd r s
  | .forceHeaderCmd r => Sys2Proof.Machine.execForceHeaderCmd r s
  | .noopCmd r => Sys2Proof.Machine.execNoopCmd r s
  | .getExtendedPropertyCmd r => Sys2Proof.Machine.execGetExtendedPropertyCmd r s
  | .setExtendedPropertyCmd r => Sys2Proof.Machine.execSetExtendedPropertyCmd r s
  | .reserved26 r => Sys2Proof.Machine.execReserved26 r s
  | .reserved27 r => Sys2Proof.Machine.execReserved27 r s
  | .reserved28 r => Sys2Proof.Machine.execReserved28 r s
  | .reserved29 r => Sys2Proof.Machine.execReserved29 r s
  | .reserved30 r => Sys2Proof.Machine.execReserved30 r s
  | .reserved31 r => Sys2Proof.Machine.execReserved31 r s
  | .transferEvent r => Sys2Proof.Machine.execTransferEvent r s
  | .commandCompletionEvent r => Sys2Proof.Machine.execCommandCompletionEvent r s
  | .portStatusChangeEvent r => Sys2Proof.Machine.execPortStatusChangeEvent r s
  | .bandwidthRequestEvent r => Sys2Proof.Machine.execBandwidthRequestEvent r s
  | .doorbellEvent r => Sys2Proof.Machine.execDoorbellEvent r s
  | .hostControllerEvent r => Sys2Proof.Machine.execHostControllerEvent r s
  | .deviceNotificationEvent r => Sys2Proof.Machine.execDeviceNotificationEvent r s
  | .mfindexWrapEvent r => Sys2Proof.Machine.execMfindexWrapEvent r s
  | .reserved40 r => Sys2Proof.Machine.execReserved40 r s
  | .reserved41 r => Sys2Proof.Machine.execReserved41 r s
  | .reserved42 r => Sys2Proof.Machine.execReserved42 r s
  | .reserved43 r => Sys2Proof.Machine.execReserved43 r s
  | .reserved44 r => Sys2Proof.Machine.execReserved44 r s
  | .reserved45 r => Sys2Proof.Machine.execReserved45 r s
  | .reserved46 r => Sys2Proof.Machine.execReserved46 r s
  | .reserved47 r => Sys2Proof.Machine.execReserved47 r s
  | .vendor48 r => Sys2Proof.Machine.execVendor48 r s
  | .vendor49 r => Sys2Proof.Machine.execVendor49 r s
  | .vendor50 r => Sys2Proof.Machine.execVendor50 r s
  | .vendor51 r => Sys2Proof.Machine.execVendor51 r s
  | .vendor52 r => Sys2Proof.Machine.execVendor52 r s
  | .vendor53 r => Sys2Proof.Machine.execVendor53 r s
  | .vendor54 r => Sys2Proof.Machine.execVendor54 r s
  | .vendor55 r => Sys2Proof.Machine.execVendor55 r s
  | .vendor56 r => Sys2Proof.Machine.execVendor56 r s
  | .vendor57 r => Sys2Proof.Machine.execVendor57 r s
  | .vendor58 r => Sys2Proof.Machine.execVendor58 r s
  | .vendor59 r => Sys2Proof.Machine.execVendor59 r s
  | .vendor60 r => Sys2Proof.Machine.execVendor60 r s
  | .vendor61 r => Sys2Proof.Machine.execVendor61 r s
  | .vendor62 r => Sys2Proof.Machine.execVendor62 r s
  | .vendor63 r => Sys2Proof.Machine.execVendor63 r s
  | .dbword reg target stream => Sys2Proof.Machine.execDbword reg target stream s
  | .crcrword base => Sys2Proof.Machine.execCrcrword base s
  | .dcbaaent index addr => Sys2Proof.Machine.execDcbaaent index addr s
  | .read w => Sys2Proof.Machine.execRead w s
  | .write w v => Sys2Proof.Machine.execWrite w v s
  | .readBits w shift width => Sys2Proof.Machine.execReadBits w shift width s
  | .writeBits w shift width value => Sys2Proof.Machine.execWriteBits w shift width value s
  | .normalTrbNew buf len => Sys2Proof.Machine.execNormalTrbNew buf len s
  | .trbLink r => Sys2Proof.Machine.execTrbLink r s
  | .setupStageTrbNew bm br wv wi wl => Sys2Proof.Machine.execSetupStageTrbNew bm br wv wi wl s
  | .dataStageTrbNewIn buf len => Sys2Proof.Machine.execDataStageTrbNewIn buf len s
  | .dataStageTrbNewOut buf len => Sys2Proof.Machine.execDataStageTrbNewOut buf len s
  | .statusStageTrbNewIn => Sys2Proof.Machine.execStatusStageTrbNewIn s
  | .statusStageTrbNewOut => Sys2Proof.Machine.execStatusStageTrbNewOut s
  | .commandTrbNew type slot param => Sys2Proof.Machine.execCommandTrbNew type slot param s
  | .cycleBitState t => Sys2Proof.Machine.execCycleBitState t s
  | .setCycleState r j b => Sys2Proof.Machine.execSetCycleState r j b s
  | .trbType t => Sys2Proof.Machine.execTrbType t s
  | .slotId t => Sys2Proof.Machine.execSlotId t s
  | .data t => Sys2Proof.Machine.execData t s
  | .toggleCycle t => Sys2Proof.Machine.execToggleCycle t s
  | .completionCode t => Sys2Proof.Machine.execCompletionCode t s
  | .transferLength t => Sys2Proof.Machine.execTransferLength t s
  | .classify t => Sys2Proof.Machine.execClassify t s
  | .store r j t => Sys2Proof.Machine.execStore r j t s
  | .load r j => Sys2Proof.Machine.execLoad r j s
  | .trbRingNew place => Sys2Proof.Machine.execTrbRingNew place s
  | .slot r j => Sys2Proof.Machine.execSlot r j s
  | .slotAddr r j => Sys2Proof.Machine.execSlotAddr r j s
  | .advanceIndex r newCycle => Sys2Proof.Machine.execAdvanceIndex r newCycle s
  | .advanceIndexNotoggle r ours => Sys2Proof.Machine.execAdvanceIndexNotoggle r ours s
  | .trbRingReset k => Sys2Proof.Machine.execTrbRingReset k s
  | .current c => Sys2Proof.Machine.execCurrent c s
  | .trbRingPhysAddr r => Sys2Proof.Machine.execTrbRingPhysAddr r s
  | .setLinkTrb r => Sys2Proof.Machine.execSetLinkTrb r s
  | .skipLink o => Sys2Proof.Machine.execSkipLink o s
  | .commandRingNew => Sys2Proof.Machine.execCommandRingNew s
  | .commandRingReset => Sys2Proof.Machine.execCommandRingReset s
  | .commandRingPhysAddr => Sys2Proof.Machine.execCommandRingPhysAddr s
  | .crcrValue => Sys2Proof.Machine.execCrcrValue s
  | .push t => Sys2Proof.Machine.execPush t s
  | .transferRingNew k => Sys2Proof.Machine.execTransferRingNew k s
  | .fillRing k => Sys2Proof.Machine.execFillRing k s
  | .dequeueTrb k expected => Sys2Proof.Machine.execDequeueTrb k expected s
  | .eventRingReset => Sys2Proof.Machine.execEventRingReset s
  | .hasEvent => Sys2Proof.Machine.execHasEvent s
  | .pop => Sys2Proof.Machine.execPop s
  | .maxDeviceSlots => Sys2Proof.Machine.execMaxDeviceSlots s
  | .maxInterrupters => Sys2Proof.Machine.execMaxInterrupters s
  | .maxPorts => Sys2Proof.Machine.execMaxPorts s
  | .maxScratchpadBuffers => Sys2Proof.Machine.execMaxScratchpadBuffers s
  | .isHalted => Sys2Proof.Machine.execIsHalted s
  | .resetXhc => Sys2Proof.Machine.execResetXhc s
  | .startXhc => Sys2Proof.Machine.execStartXhc s
  | .setDcbaaPtr addr => Sys2Proof.Machine.execSetDcbaaPtr addr s
  | .setCmdRingCtrl value => Sys2Proof.Machine.execSetCmdRingCtrl value s
  | .setNumDeviceSlots n => Sys2Proof.Machine.execSetNumDeviceSlots n s
  | .notify reg target stream => Sys2Proof.Machine.execNotify reg target stream s
  | .pinnedNew k size align shared => Sys2Proof.Machine.execPinnedNew k size align shared s
  | .pinnedPhysAddr a => Sys2Proof.Machine.execPinnedPhysAddr a s
  | .getUncheckedMut a => Sys2Proof.Machine.execGetUncheckedMut a s
  | .dcbaaNew => Sys2Proof.Machine.execDcbaaNew s
  | .dcbaaSetEntry j addr => Sys2Proof.Machine.execDcbaaSetEntry j addr s
  | .dcbaaEntry j => Sys2Proof.Machine.execDcbaaEntry j s

end Sys2Proof.Machine
end

