-- ==== Sys2Proof/Machine/Fetch.lean ====
section
/-! DEFINITION. What the next turn does (R318, R329, log 7): the instruction it runs, fetched from the CPU
agent's list of operations or by the controller from a ring, or the state it leads to at once. Also the
placing of an instruction word where the next step finds it. -/

namespace Sys2Proof.Machine

open Sys2Proof

/-! ### Fetching -/

/-- The 16 bytes at `a`, one atomic fetch (R82). -/
def fetchBytes (s : State) (a : Addr) : List Byte := (List.range 16).map fun i => s.mem.read (a.toNat + i)

/-- What the controller reads at a ring's pointer, 16-aligned, and the state after it: the memory of a live allocation
(R337); or, in a freed block that it may still hold the address of, "memory that now belongs to something else" (R295,
U23 of spec/93), whatever another user of the memory has put there: 16 free bytes (log 46). -/
def fetchAt (s : State) (a : Addr) : Option (List Byte × State) :=
  if a.toNat % 16 = 0 then
    if insideLive s a 16 then some (fetchBytes s a, s)
    else if insideStale s a 16 then
      some (bytesOf 8 s.draw.1 ++ bytesOf 8 s.draw.2.draw.1, s.draw.2.draw.2)
    else none
  else none

/-- The record the controller fetches from a ring: only in `Running` (R330), at the ring's pointer, and not while it
holds the record of that slot already (log 46). -/
def fetchRing (s : State) (sel : RingSel) (r : HcRing) : Option (List Byte × State) :=
  if running s.cfg.layout s.op && !holdsFrom s.hc sel then fetchAt s r.p else none

/-- A record with the ring's cycle state has been fetched: the controller holds its address and the address in it
(R295, R368; log 49). One without is not the controller's, and nothing is taken from it (R82, R331). -/
def learnRecord (r : HcRing) (x : Trb) (h : HcHidden) : HcHidden :=
  if trbCycle x = r.ccs then learn [r.p, x.param] h else h

/-- The instruction that the consume step fetches from a ring, and the state after the fetch. -/
def hcFetch (s : State) (sel : RingSel) : Option (Instr × State) :=
  match hcRing? s.hc sel with
  | none => none
  | some r =>
    match fetchRing s sel r with
    | none => none
    | some (bytes, t) =>
      match decode s.cfg.layout .trb bytes with
      | .ok i => some (i, { t with hc := learnRecord r (trbOfBytes bytes) t.hc })
      | .error _ => none

/-- The fetch step (R295, R332; log 46): a record with the ring's cycle state that is no Link is held. -/
def hcHold (k : Nat) (s : State) : State :=
  match s.hc.endpoints[k]? with
  | none => s
  | some e =>
    match fetchRing s (.endpoint k) e.ring with
    | none => s
    | some (bytes, t) =>
      let x := trbOfBytes bytes
      if trbCycle x = e.ring.ccs ∧ trbTypeOf x ≠ 6 then
        let h : HeldTrb := { owner := some k, slot := e.slot, endpoint := e.endpoint, addr := e.ring.p, trb := x }
        { t with hc := learn [h.addr, x.param] { t.hc with held := t.hc.held ++ [h] } }
      else s

/-- Whether IH holds because a status bit is not yet as it awaits it (R275). -/
def ihAwaits (s : State) : Bool :=
  match s.ih.current with
  | none => false
  | some op => op.awaits.any fun a => a.unmet s

/-- The CPU agent that has the turn: IH while a handler runs, until it ends "or to a hold" (R318), when the others step
freely (R275); a handler that waits for a lock keeps the CPU (R367); log 22. -/
def dispatch (s : State) : State := { s with cpu := if s.handlerActive && !ihAwaits s then .ih else .sw }

/-- The running CPU agent has no operation left: a handler ends (R318), SW stays. -/
def agentIdle (s : State) : State :=
  match s.cpu with
  | .sw => s
  | .ih => { s with handlerActive := false, cpu := .sw }

/-- Go on with the operation in progress to its end, or to a hold. -/
def resume (op : Pending) (s : State) : State :=
  run op.instr (feed (progOf s.cfg.layout op.instr) op.answers) op.answers s

/-- Go on with the operation in progress by one access. -/
def resumeOne (op : Pending) (s : State) : State :=
  runOne op.instr op.answers s (feed (progOf s.cfg.layout op.instr) op.answers)

/-- Take the next operation off the running agent's list. -/
def takeOp (rest : List Instr) (s : State) : State :=
  { s.setCtx { s.ctx with program := rest } with serving := .value }

/-! ### Turns -/

/-- What a step does: run an instruction in a state, or end in an outcome. -/
inductive Action where
  | exec (i : Instr) (s : State)
  | done (o : Host.Outcome State Fault Refusal)

/-- The guard of a CPU agent's turn (R37, R300, R306), and the choice of the agent that has it. -/
def cpuTurn (s : State) (next : State → Action) : Action :=
  match s.faulted, s.refused with
  | some c, _ => .done (.fault (.fatal c))
  | none, some r => .done (.refused r)
  | none, none => next (dispatch s)

/-- A turn of a CPU agent: a whole operation, or what is left of the one in progress. -/
def cpuAction (s : State) : Action :=
  cpuTurn s fun s =>
    match s.ctx.current, s.ctx.program with
    | some op, _ => .done (.next (resume op s))
    | none, i :: rest => .exec i (takeOp rest s)
    | none, [] => .done (.next (agentIdle s))

/-- A turn of one access (R329). -/
def accessAction (s : State) : Action :=
  cpuTurn s fun s =>
    match s.ctx.current, s.ctx.program with
    | some op, _ => .done (.next (resumeOne op s))
    | none, i :: rest => .done (.next (runOne i [] (takeOp rest s) (progOf s.cfg.layout i)))
    | none, [] => .done (.next (agentIdle s))

/-- A CPU agent drops an owner, between two of its operations; in the middle of one nothing changes (log 39). -/
def dropAction (o : Owned) (s : State) : Action :=
  cpuTurn s fun s => .done (.next (if s.ctx.current.isNone then dropOwner o s else s))

/-- A turn of the controller (R330 to R334); a step that is not enabled changes nothing. -/
def hcAction (h : HcStep) (s : State) : Action :=
  match h with
  | .consume sel =>
    match hcFetch s sel with
    | some (i, t) => .exec i { t with serving := .hc sel }
    | none => .done (.next s)
  | .fetch k => .done (.next (hcHold k s))
  | .complete j =>
    match s.hc.held[j]? with
    | none => .done (.next s)
    | some h =>
      if running s.cfg.layout s.op then
        .exec (decodeTrb s.cfg.layout h.trb)
          { s with hc := { s.hc with held := s.hc.held.eraseIdx j }, serving := .held h }
      else .done (.next s)
  | .post => .done (.next (hcPost s))
  | .halt => .done (.next (hcHalt s))
  | .resetComplete => .done (.next (hcResetComplete s))
  | .run => .done (.next (hcRun s))

def turnAction (t : Turn) (s : State) : Action :=
  match t with
  | .cpu => cpuAction s
  | .access => accessAction s
  | .handler => .done (.next (beginHandler s))
  | .drop o => dropAction o s
  | .hc h => hcAction h s
  | .bindEndpoint slotId endpoint k => .done (.next (bindEndpoint slotId endpoint k s))
  | .bindEventRing => .done (.next (bindEventRing s))

/-- The next turn: the head of `turns`, or, when the interleaving says no more, the CPU agent's. -/
def nextAction (s : State) : Action :=
  match s.turns with
  | [] => cpuAction s
  | t :: rest => turnAction t { s with turns := rest }

/-! ### Placing an instruction word (log 12) -/

/-- Where the record of `placeWord` stands. -/
def wordBase : Addr := 0x00200000#64

/-- A running controller and no mark: what the fetch of a record needs. -/
def readyHc (s : State) : State :=
  { s with
    op := { s.op with usbcmd := oneBit s.cfg.layout.runStop, usbsts := 0 }
    allocs := { base := wordBase, size := Config.ringBytes, kind := .ring } :: s.allocs }

/-- SW's next operation is `i`. -/
def placeOp (i : Instr) (s : State) : State :=
  { s with
    sw := { s.sw with program := i :: s.sw.program, current := none }
    handlerActive := false
    cpu := .sw
    turns := .cpu :: s.turns
    faulted := none
    refused := none }

/-- Which consumer fetches a record of type `code`: the ring of an endpoint for a transfer TRB, software for
an event, the Command Ring for the others (R108). -/
def consumerOf (l : Layout) (code : BitVec 6) : Option RingSel :=
  match classOf l code with
  | .normal | .setupStage | .dataStage | .statusStage | .isoch | .eventData | .noOp => some (.endpoint 0)
  | .event _ => none
  | .link | .command _ | .reserved _ | .vendor _ => some .command

/-- Put the record's bytes at a ring's pointer, with the matching cycle state, and let the controller take
the next turn. -/
def placeRecord (sel : RingSel) (bytes : List Byte) (ccs : Bool) (s : State) : State :=
  let r : HcRing := { p := wordBase, ccs := ccs }
  let s1 := readyHc s
  { s1 with
    mem := s1.mem.writeBytes wordBase.toNat bytes
    hc :=
      match sel with
      | .command => { s1.hc with cmd := r }
      | .endpoint _ => { s1.hc with endpoints := [{ slot := 1, endpoint := 1, ring := r }], held := [] }
    turns := .hc (.consume sel) :: s1.turns }

/-- The instruction the bytes decode to, placed where the next step finds it. -/
def placeWord (f : Format) (bytes : List Byte) (s : State) : State :=
  match f, decode s.cfg.layout f bytes with
  | .trb, .ok i =>
    let control : Word32 := (wordOf (bytes.drop 12)).setWidth 32
    match consumerOf s.cfg.layout (typeField control) with
    | some sel => placeRecord sel bytes (control.getLsbD 0) s
    | none => placeOp i s
  | .dcbaaent _, .ok i =>
    placeOp i
      { s with
        dcbaa := some wordBase
        allocs := { base := wordBase, size := Config.dcbaaBytes, kind := .dcbaa } :: s.allocs }
  | .dbword _, .ok i => placeOp i s
  | .crcrword, .ok i => placeOp i s
  | _, .error _ => s

end Sys2Proof.Machine
end

