-- ==== Sys2Proof/Machine/Step.lean ====
section
/-! DEFINITION. One step of the block (R329): the next turn, and the instruction it runs; and the placing of a
table word where the next step finds it. -/

namespace Sys2Proof.Machine

open Sys2Proof

/-- One step. -/
def step (s : State) : Host.Outcome State Fault Refusal :=
  match nextAction s with
  | .exec i t => exec i t
  | .done o => o

/-- `s` with a table word placed where the next step fetches its instruction (log 12). -/
def State.withFetchWord (s : State) (nbits w : Nat) : State :=
  match tableBytes nbits w with
  | none => s
  | some (f, bytes) => placeWord f bytes s

end Sys2Proof.Machine
end

