-- ==== Sys2Proof/Safety.lean ====
section
/-! DEFINITION. What statements about the block are said in: the named states of the controller (R270), holds
(R275), ownership of slots (R26, R199), what is true of a ring between operations (R25, R200, R216, R231), and
the invariant every step keeps. -/

namespace Sys2Proof.Machine

open Sys2Proof

/-! ### Marks, agents, results -/

/-- No mark is set: the CPU agents have steps (R37, R300). -/
abbrev Unmarked (s : State) : Prop := s.faulted = none ∧ s.refused = none

/-- The layout is the one that R41 to R52, R104, R105, R108 and R115 give (R9). -/
abbrev StandardLayout (s : State) : Prop := s.cfg.layout = Layout.standard

/-- The operation ended `ok` with result `r`, and nothing else of the state changed but the record of
accesses: registers, memory, rings, locks, marks, the controller are as before. -/
def Answered (s t : State) (r : Result) : Prop := t = { s.finish r with trace := t.trace }

/-- Every byte of DMA-visible memory outside `[a, a + n)` reads as before. -/
def SameOutside (s t : State) (a n : Nat) : Prop :=
  ∀ x, (x < a ∨ a + n ≤ x) → t.mem.read x = s.mem.read x

/-- The operation ended `ok` with result `r` and stored only to the `n` bytes from `a` on: every other byte reads
as before, and nothing else of the state changed but the record of accesses. -/
def Stored (s t : State) (r : Result) (a n : Nat) : Prop :=
  SameOutside s t a n ∧ t = { s.finish r with mem := t.mem, trace := t.trace }

/-- The state with the lock of ring `r` held by the running agent; a ring other than a Transfer Ring has none. -/
def held (r : RingId) (s : State) : State :=
  match r with
  | .transfer k => s.setLock (.ring k) (.held s.agent)
  | .command | .event | .bare _ => s

/-- An operation on ring `r` ended in `raise Fatal(code)` (R300): the mark, and nothing else but the record of
accesses, and the lock of `r`, if it is a Transfer Ring, that the operation still holds (R314). -/
def Fatal (s t : State) (code : FatalCode) (r : RingId) : Prop :=
  t = { raiseFatal code (held r s) with trace := t.trace }

/-- The operation was refused (R306): the mark, and nothing else but the record of accesses. -/
def Refused (s t : State) (why : Refusal) : Prop := t = { raiseRefusal why s with trace := t.trace }

/-- The running agent has an operation in progress whose next access has no step (R275, R85). -/
def holding (s : State) : Bool :=
  match s.ctx.current with
  | none => false
  | some op =>
    match feed (progOf s.cfg.layout op.instr) op.answers with
    | .act m _ =>
      match m s with
      | .hold _ => true
      | .done _ _ => false
      | .refuse _ => false
      | .fatal _ => false
    | .ret _ => false
    | .fatal _ => false
    | .refuse _ => false

/-- A constructor has made the blocks `made` live, left the memory `m`, and keeps its object where `o` stood, which is
dropped (R295). -/
def replaced (o : Owned) (made : List Alloc) (m : Memory) (s : State) : State :=
  freeAllocs (ownedBlocks o s) { s with allocs := made ++ s.allocs, mem := m }

/-- The running agent is the one CPU agent there is: SW while no handler is active, IH while one is. -/
abbrev Alone (s : State) : Prop := s.handlerActive = decide (s.cpu = .ih)

/-! ### The controller's named states (R270) -/

inductive Lifecycle where
  | unknown
  | running
  | stopping
  | halted
  | resetting
  | starting
  deriving DecidableEq, Repr

/-- The name of the triple (`R/S`, `HCRST`, `HCH`), also at launch. R270 has no row for `R/S` = `HCRST` = 1 but that of
`Unknown`, "at launch"; the model gives that triple this name at any time (DESIGN CHOICE, log 42). -/
def lifecycle (l : Layout) (o : OpRegs) : Lifecycle :=
  match runStop l o.usbcmd, hcReset l o.usbcmd, halted l o.usbsts with
  | true, false, false => .running
  | false, false, false => .stopping
  | false, false, true => .halted
  | false, true, _ => .resetting
  | true, false, true => .starting
  | true, true, _ => .unknown

/-- The named state the controller is in. -/
def State.lifecycle (s : State) : Lifecycle := Sys2Proof.Machine.lifecycle s.cfg.layout s.op

/-- The controller executes a transfer TRB with cycle bit `cycle` of the slot at `a`, for endpoint `endpoint` of device
slot `slot` (R332): it consumes it from the ring at whose pointer it stands, or it has fetched it before (R295). `moved`
are the endpoints it knows, the ring's pointer past the slot. -/
def ExecutesTransfer (s : State) (cycle : Bool) (a : Addr) (slot : BitVec 8) (endpoint : BitVec 5)
    (moved : List HcEndpoint) : Prop :=
  (∃ k e, s.serving = .hc (.endpoint k) ∧ s.hc.endpoints[k]? = some e ∧ cycle = e.ring.ccs ∧ a = e.ring.p ∧
    slot = e.slot ∧ endpoint = e.endpoint ∧
    moved = s.hc.endpoints.set k { e with ring := { p := a + 16, ccs := e.ring.ccs } }) ∨
  ∃ h, s.serving = .held h ∧ a = h.addr ∧ slot = h.slot ∧ endpoint = h.endpoint ∧
    moved =
      match h.owner with
      | none => s.hc.endpoints
      | some k => s.hc.endpoints.modify k fun e => { e with ring := { p := a + 16, ccs := e.ring.ccs } }

/-! ### Rings between operations -/

/-- The ring's 256 bytes do not cross the top of the 64-bit space (R125, R290). -/
abbrev RingBuf.Placed (b : RingBuf) : Prop := b.phys.toNat + Config.ringBytes ≤ 2 ^ 64

/-- The record in slot `i` of a ring at `base`. -/
def slotTrb (m : Memory) (base : Addr) (i : Nat) : Trb := m.readTrb (slotAt base i)

/-- The cycle bit of slot `i`. -/
def slotCycle (m : Memory) (base : Addr) (i : Nat) : Bool := trbCycle (slotTrb m base i)

/-- The Link record of R107 with cycle bit `c`. -/
def linkRecord (base : Addr) (c : Bool) : Trb := { linkTrb base with control := withCycle 0x1802 c }

/-- The lock of a ring is free; a ring other than a Transfer Ring has none. -/
def LockFree (s : State) : RingId → Prop
  | .transfer k => s.lock? (.ring k) = some .free
  | .command | .event | .bare _ => True

/-- What holds between operations of a ring software produces into (R199, R200): the cursor never rests on the
Link slot; behind it every usable slot of this lap is handed over, from it on none is; the Link record stands in
slot 15, last handed over one lap ago. -/
def ProducerRing (m : Memory) (b : RingBuf) (cso : Bool) : Prop :=
  b.Placed ∧ b.index.val ≤ 14 ∧
    (∀ j, j < 15 → slotCycle m b.phys j = if j < b.index.val then !cso else cso) ∧
    (∀ j, j < 15 → trbTypeOf (slotTrb m b.phys j) ≠ 6) ∧
    slotTrb m b.phys 15 = linkRecord b.phys cso

/-- A Command Ring between operations (R216). -/
def CommandRingOk (s : State) : Prop := ∃ c, s.cmdRing = some c ∧ ProducerRing s.mem c.ring c.cso

/-- Transfer Ring `k` between operations, after the first `fill_ring` (R231): every usable slot holds the Normal
record of its own buffer, and the dequeue cursor is two usable slots ahead of the enqueue cursor. -/
def TransferRingOk (s : State) (k : Nat) : Prop :=
  ∃ t, s.transferRing? k = some t ∧ t.lock = .free ∧ ProducerRing s.mem t.ring t.cso ∧
    t.buffers.length = 15 ∧ t.deq.val = (t.ring.index.val + 2) % 15 ∧
    ∀ j, j < 15 → ∃ len, len ≤ Config.bufSize ∧
      slotTrb s.mem t.ring.phys j =
        { param := t.buffers.getD j 0
          status := BitVec.ofNat 32 len
          control := withCycle 0x424 (slotCycle s.mem t.ring.phys j) }

/-- The enqueue or dequeue cursor's next place among the usable slots (R39). -/
def nextUsable (i : Nat) : Nat := (i + 1) % 15

/-! ### The invariant -/

/-- A live allocation is what R290 and R293 allow: inside the 64-bit space, page-aligned if it is shared with the
controller and of its kind's size, and apart from the three register blocks. -/
def AllocOk (s : State) (a : Alloc) : Prop :=
  a.base.toNat + a.size ≤ 2 ^ 64 ∧
    (match a.kind with
      | .ring => a.size = Config.ringBytes ∧ a.base.toNat % Config.page = 0
      | .buffer => a.size = Config.bufSize ∧ a.base.toNat % Config.page = 0
      | .dcbaa => a.size = Config.dcbaaBytes ∧ a.base.toNat % Config.page = 0
      | .other => True) ∧
    apart a.base.toNat a.size s.cfg.mmioBase.toNat s.cap.caplength.toNat = true ∧
    apart a.base.toNat a.size (opBase s) (opSize s) = true ∧
    apart a.base.toNat a.size (dbBase s) (dbSize s) = true

/-- What every step keeps: memory in its canonical form; live allocations as the allocator may give them and
pairwise without a common address (R71, R290); the register blocks as R90 places them; no Doorbell lock held twice (R59); never more than 16 events posted and
not consumed (R333). -/
def State.Inv (s : State) : Prop :=
  s.mem.wf = true ∧ blocksPlaced s = true ∧ (∀ a ∈ s.allocs, AllocOk s a) ∧
    s.allocs.Pairwise (fun a b => apart a.base.toNat a.size b.base.toNat b.size = true) ∧
    (s.dbLocks.map (·.1)).Nodup ∧ ∀ e, s.eventRing = some e → e.unread ≤ Config.ringLen

/-- A byte that belongs to a ring or to the DCBAA, and whose address the controller cannot hold from a dropped
owner (R295). -/
def protectedByte (s : State) (a : Nat) : Bool :=
  (s.allocs.any fun l => l.has a && (decide (l.kind = .ring) || decide (l.kind = .dcbaa))) &&
    !s.stale.any (·.has a)

end Sys2Proof.Machine
end

