-- ==== Sys2Proof/Certificates/Slice0/Obligations.lean ====
section
/-! DEFINITION. The statements about the block, one definition each. The words they are said in (`Answered`,
`Stored`, `Fatal`, `ProducerRing`, …) are those of Safety.lean. -/

open Sys2Proof Sys2Proof.Machine

/-! ### Encoding (spec/30_encoding.md) -/

/-- Decoding what the encoder writes gives the instruction back, for every record type and every word format
and every value of every operand (R101 to R103, R116, R117, R119), whatever type codes the layout gives (D3): no bit of
an encoding is dropped. -/
def Obligations.DecodeOfEncodeIsIdentity : Prop :=
  ∀ (l : Layout) (i : Instr) (f : Format) (bs : List Byte), l.codesOk = true → encode l i = some (f, bs) →
    decode l f bs = .ok i

/-- R103: control bits 15:10 alone choose the record type; each of the 64 codes has its own constructor, which at the
layout of R108 is the one with that number; and the three words of the record are kept in its operands. -/
def Obligations.TypeFieldAloneSelectsTheRecord : Prop :=
  (∀ c : BitVec 6, Layout.standard.kindOf c = c) ∧
    (∀ (c c' : BitVec 6) (r r' : Rec), recordOf c r = recordOf c' r' → c = c' ∧ r = r') ∧
    ∀ l : Layout, l.codesOk = true →
      (∀ c c' : BitVec 6, l.kindOf c = l.kindOf c' → c = c') ∧
      ∀ t : Trb,
        let kind := l.kindOf (t.control.extractLsb' 10 6)
        decodeTrb l t = recordOf kind (recOf t.param t.status t.control) ∧
          trbOf l kind (recOf t.param t.status t.control) = t

/-- Which bytes each format admits: any 16 bytes are a record (R121, R122); a doorbell word has bits 15:8 zero
(R116); a command-ring-control word has bits 5:0 = 000001 (R117); any 8 bytes are a DCBAA entry (R119). The bytes are
the encoding of the instruction they decode to: each byte string has one meaning. -/
def Obligations.FormatsAdmitExactlyTheirWords : Prop :=
  ∀ l : Layout,
    (∀ bs, (∃ i, decode l .trb bs = .ok i) ↔ bs.length = 16) ∧
    (∀ reg bs, (∃ i, decode l (.dbword reg) bs = .ok i) ↔ bs.length = 4 ∧ bs[1]? = some 0) ∧
    (∀ bs, (∃ i, decode l .crcrword bs = .ok i) ↔
      bs.length = 8 ∧ ∃ b, bs[0]? = some b ∧ b.extractLsb' 0 6 = 1) ∧
    (∀ k bs, (∃ i, decode l (.dcbaaent k) bs = .ok i) ↔ bs.length = 8) ∧
    (l.codesOk = true → ∀ f bs i, decode l f bs = .ok i → encode l i = some (f, bs))

/-- A few words written out from the encodings of R106, R107, R115, R116 and R117 decode to what they stand for:
V-TRB-1, V-TRB-2, V-TRB-20, S2, V-MM-8. -/
def Obligations.WrittenOutWordsDecode : Prop :=
  decode .standard .trb [0x00, 0x50, 0x34, 0x12, 0, 0, 0, 0, 0x00, 0x10, 0, 0, 0x24, 0x04, 0, 0] =
      .ok (.normal { param := 0x12345000, status := 0x1000, cycle := false, flags := 0x12, mid := 0, slot := 0 }) ∧
    decode .standard .trb [0, 0, 0x20, 0, 0, 0, 0, 0, 0, 0, 0, 0, 0x02, 0x18, 0, 0] =
      .ok (.link { param := 0x200000, status := 0, cycle := false, flags := 1, mid := 0, slot := 0 }) ∧
    decode .standard .trb [0, 0, 0x30, 0, 0, 0, 0, 0, 0x06, 0, 0, 0x0D, 0x01, 0x80, 0x03, 0x02] =
      .ok (.transferEvent
        { param := 0x300000, status := 0x0D000006, cycle := true, flags := 0, mid := 3, slot := 2 }) ∧
    decode .standard (.dbword 3) [0, 0, 5, 0] = .ok (.dbword 3 0 5) ∧
    decode .standard .crcrword [0x01, 0, 0x20, 0, 0, 0, 0, 0] = .ok (.crcrword 0x8000)

/-! ### TRB constructors (spec/41_trb_codec.md) -/

/-- R154 with R109 to R111: `SetupStageTrb::new` packs the eight setup bytes, derives TRT from `wLength` and bit 7
of `bmRequestType`, and carries the bytes inline. An operand wider than declared is refused. -/
def Obligations.SetupStageTrbNewReturnsTheRecord : Prop :=
  ∀ (bm br wv wi wl : Nat) (s : State), Unmarked s → StandardLayout s →
    (bm < 2 ^ 8 → br < 2 ^ 8 → wv < 2 ^ 16 → wi < 2 ^ 16 → wl < 2 ^ 16 →
      exec (.setupStageTrbNew bm br wv wi wl) s =
        .next (s.finish (.trb
          { param := BitVec.ofNat 64 (bm + br * 2 ^ 8 + wv * 2 ^ 16 + wi * 2 ^ 32 + wl * 2 ^ 48)
            status := 8
            control :=
              BitVec.ofNat 32
                (0x840 + (if wl = 0 then 0 else if bm.testBit 7 then 3 else 2) * 2 ^ 16) }))) ∧
    (¬(bm < 2 ^ 8 ∧ br < 2 ^ 8 ∧ wv < 2 ^ 16 ∧ wi < 2 ^ 16 ∧ wl < 2 ^ 16) →
      exec (.setupStageTrbNew bm br wv wi wl) s = .next (raiseRefusal .operandWidth s))

/-- R152 and R155 to R158: the constructors of the Normal, Data Stage and Status Stage records. The interrupt bits of
the stages are those of the configuration (D6), at its decided values the words of R112 and R113. An operand wider
than declared is refused (R306). Nothing else changes. -/
def Obligations.TransferConstructorsReturnTheRecords : Prop :=
  ∀ (buf len : Nat) (s : State), Unmarked s → StandardLayout s →
    let record := fun (control : Nat) =>
      s.finish (.trb
        { param := BitVec.ofNat 64 buf, status := BitVec.ofNat 32 len, control := BitVec.ofNat 32 control })
    let status := fun (control : Nat) =>
      s.finish (.trb { param := 0, status := 0, control := BitVec.ofNat 32 control })
    let dataInt := (if s.cfg.dataIoc then 0x20 else 0) + (if s.cfg.dataIsp then 0x4 else 0)
    let statusInt := if s.cfg.statusIoc then 0x20 else 0
    (buf < 2 ^ 64 → len < 2 ^ 17 →
      exec (.normalTrbNew buf len) s = .next (record 0x00000424) ∧
      exec (.dataStageTrbNewIn buf len) s = .next (record (0x00010C00 + dataInt)) ∧
      exec (.dataStageTrbNewOut buf len) s = .next (record (0x00000C00 + dataInt)) ∧
      (s.cfg.dataIoc = true → s.cfg.dataIsp = false →
        exec (.dataStageTrbNewIn buf len) s = .next (record 0x00010C20) ∧
        exec (.dataStageTrbNewOut buf len) s = .next (record 0x00000C20))) ∧
    exec .statusStageTrbNewIn s = .next (status (0x00011000 + statusInt)) ∧
    exec .statusStageTrbNewOut s = .next (status (0x00001000 + statusInt)) ∧
    (s.cfg.statusIoc = true →
      exec .statusStageTrbNewIn s = .next (status 0x00011020) ∧
      exec .statusStageTrbNewOut s = .next (status 0x00001020)) ∧
    (¬(buf < 2 ^ 64 ∧ len < 2 ^ 17) →
      exec (.normalTrbNew buf len) s = .next (raiseRefusal .operandWidth s) ∧
      exec (.dataStageTrbNewIn buf len) s = .next (raiseRefusal .operandWidth s) ∧
      exec (.dataStageTrbNewOut buf len) s = .next (raiseRefusal .operandWidth s))

/-- R159: `CommandTrb::new(type, slot_id, param)`; a type outside 9 to 25 is refused, and so is a wider operand
(R306). -/
def Obligations.CommandTrbNewReturnsTheRecord : Prop :=
  ∀ (ty slotId param : Nat) (s : State), Unmarked s →
    (9 ≤ ty → ty ≤ 25 → slotId < 2 ^ 8 → param < 2 ^ 64 →
      exec (.commandTrbNew ty slotId param) s =
        .next (s.finish (.trb
          { param := BitVec.ofNat 64 param
            status := 0
            control := BitVec.ofNat 32 (ty * 2 ^ 10 + slotId * 2 ^ 24) }))) ∧
    (¬(9 ≤ ty ∧ ty ≤ 25) → exec (.commandTrbNew ty slotId param) s = .next (raiseRefusal .commandType s)) ∧
    (9 ≤ ty → ty ≤ 25 → ¬(slotId < 2 ^ 8 ∧ param < 2 ^ 64) →
      exec (.commandTrbNew ty slotId param) s = .next (raiseRefusal .operandWidth s))

/-- R175: what the accessors read of every constructor's record, and that each constructor is injective. -/
def Obligations.ConstructorLaws : Prop :=
  (∀ (b : Addr) (l : BitVec 17), trbTypeOf (normalTrb .standard b l) = 1 ∧ trbCycle (normalTrb .standard b l) = false ∧
      trbSlotId (normalTrb .standard b l) = 0 ∧ (normalTrb .standard b l).param = b) ∧
    (∀ (b : Addr), trbTypeOf (linkTrb b) = 6 ∧ trbCycle (linkTrb b) = false ∧ trbSlotId (linkTrb b) = 0 ∧
      (linkTrb b).param = b ∧ trbToggle (linkTrb b) = true) ∧
    (∀ (bm br : BitVec 8) (wv wi wl : BitVec 16), trbTypeOf (setupTrb .standard bm br wv wi wl) = 2 ∧
      trbCycle (setupTrb .standard bm br wv wi wl) = false ∧ trbSlotId (setupTrb .standard bm br wv wi wl) = 0 ∧
      (setupTrb .standard bm br wv wi wl).param.extractLsb' 0 8 = bm ∧ (setupTrb .standard bm br wv wi wl).param.extractLsb' 8 8 = br ∧
      (setupTrb .standard bm br wv wi wl).param.extractLsb' 16 16 = wv ∧
      (setupTrb .standard bm br wv wi wl).param.extractLsb' 32 16 = wi ∧
      (setupTrb .standard bm br wv wi wl).param.extractLsb' 48 16 = wl ∧
      (setupTrb .standard bm br wv wi wl).control.extractLsb' 16 2 = transferType bm wl) ∧
    (∀ (c : Params) (d : Bool) (b : Addr) (l : BitVec 17), c.layout = .standard → trbTypeOf (dataTrb c d b l) = 3 ∧
      trbCycle (dataTrb c d b l) = false ∧ trbSlotId (dataTrb c d b l) = 0 ∧ trbTypeOf (statusTrb c d) = 4 ∧
      trbCycle (statusTrb c d) = false ∧ trbSlotId (statusTrb c d) = 0) ∧
    (∀ (t : BitVec 6) (sl : BitVec 8) (p : Word64), trbTypeOf (commandTrb t sl p) = t ∧
      trbCycle (commandTrb t sl p) = false ∧ trbSlotId (commandTrb t sl p) = sl) ∧
    (∀ b b' l l', normalTrb .standard b l = normalTrb .standard b' l' → b = b' ∧ l = l') ∧
    (∀ b b', linkTrb b = linkTrb b' → b = b') ∧
    (∀ bm br wv wi wl bm' br' wv' wi' wl', setupTrb .standard bm br wv wi wl = setupTrb .standard bm' br' wv' wi' wl' →
      bm = bm' ∧ br = br' ∧ wv = wv' ∧ wi = wi' ∧ wl = wl') ∧
    (∀ c d d' b b' l l', c.layout = .standard → dataTrb c d b l = dataTrb c d' b' l' → d = d' ∧ b = b' ∧ l = l') ∧
    ∀ t t' sl sl' p p', commandTrb t sl p = commandTrb t' sl' p' →
      t = t' ∧ sl = sl' ∧ p = p'

/-! ### TRB accessors -/

/-- R164, R166 to R170, R174: the accessors of a TRB value, "regardless of which constructor produced the record";
nothing changes. `transfer_length` is `status[23:0]` for events (types 32 to 39) and `status[16:0]` for transfer TRBs
(types 1 to 8), where counting a Link (type 6) among the transfer TRBs is the model's choice (log 24); for the other
types, of which the spec states no length, it is a free value (log 24). -/
def Obligations.AccessorsOfAValue : Prop :=
  ∀ (t : Trb) (s : State), Unmarked s → StandardLayout s →
    let n := (t.control.extractLsb' 10 6).toNat
    exec (.cycleBitState (.value t)) s = .next (s.finish (.flag (t.control.getLsbD 0))) ∧
    exec (.trbType (.value t)) s = .next (s.finish (.word (BitVec.ofNat 64 n))) ∧
    exec (.slotId (.value t)) s = .next (s.finish (.word ((t.control.extractLsb' 24 8).setWidth 64))) ∧
    exec (.data (.value t)) s = .next (s.finish (.word t.param)) ∧
    exec (.toggleCycle (.value t)) s = .next (s.finish (.flag (t.control.getLsbD 1))) ∧
    exec (.completionCode (.value t)) s = .next (s.finish (.word ((t.status.extractLsb' 24 8).setWidth 64))) ∧
    exec (.classify (.value t)) s = .next (s.finish (.cls (classOf .standard (t.control.extractLsb' 10 6)))) ∧
    (32 ≤ n → n ≤ 39 →
      exec (.transferLength (.value t)) s = .next (s.finish (.word ((t.status.extractLsb' 0 24).setWidth 64)))) ∧
    (1 ≤ n → n ≤ 8 →
      exec (.transferLength (.value t)) s = .next (s.finish (.word ((t.status.extractLsb' 0 17).setWidth 64)))) ∧
    (¬(32 ≤ n ∧ n ≤ 39) → ¬(1 ≤ n ∧ n ≤ 8) →
      exec (.transferLength (.value t)) s = .next (s.draw.2.finish (.word s.draw.1)))

/-- R174: `classify` of a record is the name of its type code, for every code; it never fails. -/
def Obligations.ClassifyIsTheTypeCodeMap : Prop :=
  let name := classOf .standard
  (name 1 = .normal ∧ name 2 = .setupStage ∧ name 3 = .dataStage ∧ name 4 = .statusStage ∧ name 5 = .isoch ∧
    name 6 = .link ∧ name 7 = .eventData ∧ name 8 = .noOp ∧
    ∀ c : BitVec 6,
      (9 ≤ c.toNat → c.toNat ≤ 25 → name c = .command c) ∧
      (32 ≤ c.toNat → c.toNat ≤ 39 → name c = .event c) ∧
      (c.toNat = 0 ∨ (26 ≤ c.toNat ∧ c.toNat ≤ 31) ∨ (40 ≤ c.toNat ∧ c.toNat ≤ 47) → name c = .reserved c) ∧
      (48 ≤ c.toNat → name c = .vendor c)) ∧
    ∀ (t : Trb) (s : State), Unmarked s →
      exec (.classify (.value t)) s = .next (s.finish (.cls (classOf s.cfg.layout (t.control.extractLsb' 10 6))))

/-- The accessors applied to slot `i` of a ring (R150, R164, R166 to R170, R174): each answers what it answers of
the record in memory, and changes nothing but the record of accesses; under the lock of a Transfer Ring (R230). That
`transfer_length` counts a Link (type 6) among the transfer TRBs, and reads two words of the slot, is the model's choice
(log 24). -/
def Obligations.AccessorsOfASlot : Prop :=
  ∀ (r : RingId) (b : RingBuf) (i : Nat) (s : State), Unmarked s → StandardLayout s → s.ring? r = some b → b.Placed → i < 16 →
    LockFree s r →
    let t := slotTrb s.mem b.phys i
    (∃ u, exec (.cycleBitState (.slot r i)) s = .next u ∧ Answered s u (.flag (t.control.getLsbD 0))) ∧
    (∃ u, exec (.trbType (.slot r i)) s = .next u ∧
      Answered s u (.word ((t.control.extractLsb' 10 6).setWidth 64))) ∧
    (∃ u, exec (.slotId (.slot r i)) s = .next u ∧
      Answered s u (.word ((t.control.extractLsb' 24 8).setWidth 64))) ∧
    (∃ u, exec (.data (.slot r i)) s = .next u ∧ Answered s u (.word t.param)) ∧
    (∃ u, exec (.toggleCycle (.slot r i)) s = .next u ∧ Answered s u (.flag (t.control.getLsbD 1))) ∧
    (∃ u, exec (.completionCode (.slot r i)) s = .next u ∧
      Answered s u (.word ((t.status.extractLsb' 24 8).setWidth 64))) ∧
    (32 ≤ (t.control.extractLsb' 10 6).toNat → (t.control.extractLsb' 10 6).toNat ≤ 39 →
      ∃ u, exec (.transferLength (.slot r i)) s = .next u ∧
        Answered s u (.word ((t.status.extractLsb' 0 24).setWidth 64))) ∧
    (1 ≤ (t.control.extractLsb' 10 6).toNat → (t.control.extractLsb' 10 6).toNat ≤ 8 →
      ∃ u, exec (.transferLength (.slot r i)) s = .next u ∧
        Answered s u (.word ((t.status.extractLsb' 0 17).setWidth 64))) ∧
    (∃ u, exec (.classify (.slot r i)) s = .next u ∧ Answered s u (.cls (classOf .standard (t.control.extractLsb' 10 6)))) ∧
    ∃ u, exec (.load r i) s = .next u ∧ Answered s u (.trb t)

/-- R191, R305: an explicit slot index of 16 or more is `F_RING_INDEX`, whatever the operation; nothing was
accessed, and nothing changed but the mark and the lock of a Transfer Ring, which stays held (R314). -/
def Obligations.RingIndexOutOfRangeIsFatal : Prop :=
  ∀ (r : RingId) (b : RingBuf) (i : Nat) (c : Bool) (x : Trb) (s : State), Unmarked s → s.ring? r = some b →
    LockFree s r → 16 ≤ i →
    ∀ op ∈ [Instr.slot r i, .slotAddr r i, .load r i, .store r i x, .setCycleState r i c,
        .cycleBitState (.slot r i), .trbType (.slot r i), .slotId (.slot r i), .data (.slot r i),
        .toggleCycle (.slot r i), .completionCode (.slot r i), .transferLength (.slot r i), .classify (.slot r i)],
      exec op s = .next (raiseFatal .ringIndex (held r s))

/-- R165, R176: `store` writes the record with the slot's old cycle bit into the 16 bytes of slot `i`;
`set_cycle_state` changes bit 0 of the slot's control word and nothing else. -/
def Obligations.StoreAndSetCycleState : Prop :=
  ∀ (r : RingId) (b : RingBuf) (i : Nat) (x : Trb) (c : Bool) (s : State), Unmarked s → s.ring? r = some b →
    b.Placed → i < 16 → LockFree s r → s.mem.wf = true →
    (∃ u, exec (.store r i x) s = .next u ∧ Stored s u .unit (b.phys.toNat + 16 * i) 16 ∧
      slotTrb u.mem b.phys i = { x with control := withCycle x.control (slotCycle s.mem b.phys i) }) ∧
    ∃ u, exec (.setCycleState r i c) s = .next u ∧ Stored s u .unit (b.phys.toNat + 16 * i + 12) 4 ∧
      slotTrb u.mem b.phys i =
        { slotTrb s.mem b.phys i with control := withCycle (slotTrb s.mem b.phys i).control c }

/-- R81, R82, R176, R177: with 8-byte accesses whole (D10), `store` reads `control`, then writes `param`, `status`
and last `control`; `load` reads `control` first, then `param` and `status`; none is elided, merged or moved (R80). -/
def Obligations.StoreAndLoadOrder : Prop :=
  ∀ (r : RingId) (b : RingBuf) (i : Nat) (x : Trb) (s : State), Unmarked s → s.ring? r = some b → i < 16 →
    LockFree s r → s.cfg.split64 = false →
    let seen := fun (a : Access) => (a.agent, a.kind, a.loc, a.bytes)
    let at_ := slotAt b.phys i
    (∃ u, exec (.store r i x) s = .next u ∧
      u.trace.map seen =
        (s.agent, .write, .dma (at_ + 12), 4) :: (s.agent, .write, .dma (at_ + 8), 4) ::
          (s.agent, .write, .dma at_, 8) :: (s.agent, .read, .dma (at_ + 12), 4) :: s.trace.map seen) ∧
    ∃ u, exec (.load r i) s = .next u ∧
      u.trace.map seen =
        (s.agent, .read, .dma (at_ + 8), 4) :: (s.agent, .read, .dma at_, 8) ::
          (s.agent, .read, .dma (at_ + 12), 4) :: s.trace.map seen

/-! ### Bitfield Register Accessor (spec/40_bitfield.md) -/

/-- Which accesses to DMA-visible memory have a meaning (R71, R77, R78): aligned, of 1, 2, 4 or 8 bytes, inside a
live allocation, at the storage width of the word there. In every other case `read`, `write`, `read_bits` and
`write_bits` are refused by name, and nothing else changes (R306). That an access outside every live allocation is
refused, and that a data or bare buffer has words of every width, is the model's choice (DEDUCED, log 31). -/
def Obligations.MemoryWordsResolve : Prop :=
  ∀ (a : Addr) (n : Nat) (s : State), s.Inv →
    let width := n = 1 ∨ n = 2 ∨ n = 4 ∨ n = 8
    (∀ (u : Use), ∀ l ∈ s.allocs, l.base.toNat ≤ a.toNat → a.toNat + n ≤ l.base.toNat + l.size → width →
      a.toNat % n = 0 →
      resolve s u (.dma a n) =
        match storageWidth l.kind (a.toNat - l.base.toNat) with
        | none => .ok (.dma a)
        | some w => if n = w then .ok (.dma a) else .error .wrongWidth) ∧
    (Unmarked s → ∀ (shift span : Nat) (v : Word64),
      let refused := fun (why : Refusal) =>
        ∀ i ∈ [Instr.read (.dma a n), .write (.dma a n) v, .readBits (.dma a n) shift span,
            .writeBits (.dma a n) shift span v],
          exec i s = .next (raiseRefusal why s)
      (width → a.toNat % n = 0 →
        (∀ l ∈ s.allocs, ¬(l.base.toNat ≤ a.toNat ∧ a.toNat + n ≤ l.base.toNat + l.size)) →
        refused .outsideAllocation) ∧
      (∀ l ∈ s.allocs, l.base.toNat ≤ a.toNat → a.toNat + n ≤ l.base.toNat + l.size → width → a.toNat % n = 0 →
        ∀ w, storageWidth l.kind (a.toNat - l.base.toNat) = some w → n ≠ w → refused .wrongWidth) ∧
      (width → a.toNat % n ≠ 0 → refused .misaligned) ∧
      (¬width → refused .wrongWidth))

/-- R141 to R144 on a word of DMA-visible memory: what each operation answers, the word it leaves, and that no byte
outside the word changes. With 8-byte accesses whole (D10), `read` is one access of the word's width, `write` one, and
`write_bits` exactly one read followed by one write, also when nothing changes (R80). -/
def Obligations.BitfieldOperationsOnMemory : Prop :=
  ∀ (a : Addr) (n : Nat) (s : State), Unmarked s → s.Inv → (∀ u, resolve s u (.dma a n) = .ok (.dma a)) →
    let w := s.mem.readWord a n
    let seen := fun (x : Access) => (x.agent, x.kind, x.loc, x.bytes)
    (∃ t, exec (.read (.dma a n)) s = .next t ∧ Answered s t (.word w) ∧
      (s.cfg.split64 = false → t.trace.map seen = (s.agent, .read, .dma a, n) :: s.trace.map seen)) ∧
    (∀ v, ∃ t, exec (.write (.dma a n) v) s = .next t ∧ Stored s t .unit a.toNat n ∧
      (t.mem.readWord a n).toNat = v.toNat % 2 ^ (8 * n) ∧
      (s.cfg.split64 = false → t.trace.map seen = (s.agent, .write, .dma a, n) :: s.trace.map seen)) ∧
    (∀ shift width, shift + width ≤ 8 * n →
      ∃ t, exec (.readBits (.dma a n) shift width) s = .next t ∧
        Answered s t (.word (BitVec.ofNat 64 (w.toNat / 2 ^ shift % 2 ^ width))) ∧
        (s.cfg.split64 = false → t.trace.map seen = (s.agent, .read, .dma a, n) :: s.trace.map seen)) ∧
    ∀ shift width v, shift + width ≤ 8 * n →
      ∃ t, exec (.writeBits (.dma a n) shift width v) s = .next t ∧ Stored s t .unit a.toNat n ∧
        (∀ i, i < 64 →
          (t.mem.readWord a n).getLsbD i =
            if shift ≤ i ∧ i < shift + width then v.getLsbD (i - shift) else w.getLsbD i) ∧
        (s.cfg.split64 = false →
          t.trace.map seen = (s.agent, .write, .dma a, n) :: (s.agent, .read, .dma a, n) :: s.trace.map seen)

/-- R146, the source's testable property: `write_bits(shift, width, v)` followed by `read_bits(shift, width)` answers
`v mod 2^width` and leaves every bit outside the span; writing back what was read leaves the word unchanged. -/
def Obligations.WriteBitsThenReadBits : Prop :=
  ∀ (a : Addr) (n shift width : Nat) (v : Word64) (s : State), Unmarked s → s.Inv →
    (∀ u, resolve s u (.dma a n) = .ok (.dma a)) → shift + width ≤ 8 * n →
    (∃ t t', exec (.writeBits (.dma a n) shift width v) s = .next t ∧
      exec (.readBits (.dma a n) shift width) t = .next t' ∧
      t'.ctx.result = .word (BitVec.ofNat 64 (v.toNat % 2 ^ width)) ∧
      ∀ i, (i < shift ∨ shift + width ≤ i) →
        (t.mem.readWord a n).getLsbD i = (s.mem.readWord a n).getLsbD i) ∧
    ∃ t, exec (.writeBits (.dma a n) shift width (readSpan shift width (s.mem.readWord a n))) s = .next t ∧
      t.mem.readWord a n = s.mem.readWord a n

/-- R145, R309: a span outside the word is `F_BIT_RANGE`, before any access: the state is as it was but for the
mark. (A word the access has no right to is refused first, R311.) -/
def Obligations.SpanOutsideTheWordIsFatal : Prop :=
  ∀ (w : WordRef) (l : Loc) (shift width : Nat) (v : Word64) (s : State), Unmarked s →
    8 * wordSize w < shift + width →
    (resolve s { reads := true, writes := false } w = .ok l →
      exec (.readBits w shift width) s = .next (raiseFatal .bitRange s)) ∧
    (resolve s { reads := true, writes := true } w = .ok l →
      exec (.writeBits w shift width v) s = .next (raiseFatal .bitRange s))

/-- R41 to R51, R55: `read()` of each register of the Capability and Operational blocks at its offset and width answers
its value; the opaque words of R51 (`PAGESIZE`, `DNCTRL`, the reserved ranges, the port register sets) answer a free
value (U11; that they are 32-bit words is the model's choice, log 19). That `CRCR`, `DCBAAP` and the opaque bits of the
others answer what they last held is the model's choice too (log 18, 34, 40). The derived capacities of R256 to R259 and
`is_halted()` of R261 answer the register fields they are made of. Nothing changes but the record of accesses, and what
was drawn as a free value. -/
def Obligations.RegisterReadsAndCapacities : Prop :=
  ∀ (s : State), Unmarked s → StandardLayout s →
    let reads := fun (b : Block) (off n : Nat) (v : Word64) =>
      ∃ t, exec (.read (.mmio b off n)) s = .next t ∧ Answered s t (.word v)
    let drawn : Word32 := s.draw.1.setWidth 32
    let free := fun (off : Nat) (op : OpRegs) =>
      ∃ t, exec (.read (.mmio .op off 4)) s = .next t ∧
        t = { s.draw.2.finish (.word (drawn.setWidth 64)) with op := op, trace := t.trace }
    reads .cap 0x00 1 (s.cap.caplength.setWidth 64) ∧ reads .cap 0x01 1 (s.cap.reserved.setWidth 64) ∧
    reads .cap 0x02 2 (s.cap.hciversion.setWidth 64) ∧
    reads .cap 0x04 4 (s.cap.hcsparams1.setWidth 64) ∧ reads .cap 0x08 4 (s.cap.hcsparams2.setWidth 64) ∧
    reads .cap 0x0C 4 (s.cap.hcsparams3.setWidth 64) ∧ reads .cap 0x10 4 (s.cap.hccparams1.setWidth 64) ∧
    reads .cap 0x14 4 (s.cap.dboff.setWidth 64) ∧ reads .cap 0x18 4 (s.cap.rtsoff.setWidth 64) ∧
    reads .cap 0x1C 4 (s.cap.hccparams2.setWidth 64) ∧ reads .op 0x00 4 (s.op.usbcmd.setWidth 64) ∧
    reads .op 0x04 4 (s.op.usbsts.setWidth 64) ∧ reads .op 0x18 8 s.op.crcr ∧ reads .op 0x30 8 s.op.dcbaap ∧
    reads .op 0x38 4 (s.op.config.setWidth 64) ∧
    free 0x08 { s.op with pagesize := drawn } ∧ free 0x14 { s.op with dnctrl := drawn } ∧
    (∀ off, off % 4 = 0 → off < opSize s →
      off ∉ [0x00, 0x04, 0x08, 0x14, 0x18, 0x1C, 0x30, 0x34, 0x38] → free off s.op) ∧
    let answers := fun (i : Instr) (r : Result) => ∃ t, exec i s = .next t ∧ Answered s t r
    let field := fun (v : Word32) (shift width : Nat) => v.toNat / 2 ^ shift % 2 ^ width
    answers .maxDeviceSlots (.word (BitVec.ofNat 64 (field s.cap.hcsparams1 0 8))) ∧
    answers .maxInterrupters (.word (BitVec.ofNat 64 (field s.cap.hcsparams1 8 11))) ∧
    answers .maxPorts (.word (BitVec.ofNat 64 (field s.cap.hcsparams1 24 8))) ∧
    answers .maxScratchpadBuffers
      (.word (BitVec.ofNat 64 (field s.cap.hcsparams2 21 5 * 32 + field s.cap.hcsparams2 27 5))) ∧
    answers .isHalted (.flag (s.op.usbsts.getLsbD 0))

/-- The accessor operations on the registers that software writes. On `USBCMD` and `CONFIG` (R46, R50, R143, R144, R262)
`read_bits` answers the span, `write_bits` replaces it and preserves every other bit, `write` replaces all bits (R142). A
raw `write` of `DCBAAP` and of `CRCR` takes the 8 bytes; while the controller is halted `CRCR` loads its pointer and
cycle state, and while it is not what these become is the model's free value (R266; log 17). A raw `write` of a Doorbell
register makes pending the ring that its word addresses (R142, R336) and no lock is taken. Nothing else changes but the
record of accesses, and the ghost list of the addresses the controller holds, which gains what `DCBAAP` and `CRCR` are
given (R295; DESIGN CHOICE, log 49). -/
def Obligations.BitfieldOperationsOnRegisters : Prop :=
  ∀ (shift width : Nat) (v : Word64) (s : State), Unmarked s → StandardLayout s →
    let word := fun (off : Nat) (old : Word32) (put : Word32 → OpRegs) =>
      (shift + width ≤ 32 →
        (∃ t, exec (.readBits (.mmio .op off 4) shift width) s = .next t ∧
          Answered s t (.word (BitVec.ofNat 64 (old.toNat / 2 ^ shift % 2 ^ width)))) ∧
        ∃ t w, exec (.writeBits (.mmio .op off 4) shift width v) s = .next t ∧
          t = { s.finish .unit with op := put w, trace := t.trace } ∧
          ∀ i, i < 32 →
            w.getLsbD i = if shift ≤ i ∧ i < shift + width then v.getLsbD (i - shift) else old.getLsbD i) ∧
      ∃ t, exec (.write (.mmio .op off 4) v) s = .next t ∧
        t = { s.finish .unit with op := put (v.setWidth 32), trace := t.trace }
    word 0x00 s.op.usbcmd (fun w => { s.op with usbcmd := w }) ∧
    word 0x38 s.op.config (fun w => { s.op with config := w }) ∧
    (∃ t, exec (.write (.mmio .op 0x30 8) v) s = .next t ∧
      t = { s.finish .unit with op := { s.op with dcbaap := v }, hc := learn [v] s.hc, trace := t.trace }) ∧
    (halted s.cfg.layout s.op.usbsts = true →
      ∃ t, exec (.write (.mmio .op 0x18 8) v) s = .next t ∧
        t = { s.finish .unit with
          op := { s.op with crcr := v }
          hc := { learn [v &&& ~~~0x3F#64] s.hc with cmd := { p := v &&& ~~~0x3F#64, ccs := v.getLsbD 0 } }
          trace := t.trace }) ∧
    (halted s.cfg.layout s.op.usbsts = false →
      ∃ t c, exec (.write (.mmio .op 0x18 8) v) s = .next t ∧
        t = { s.draw.2.finish .unit with
          op := { s.op with crcr := v }
          hc := { learn [v &&& ~~~0x3F#64] s.hc with cmd := c }
          trace := t.trace }) ∧
    ∀ i, i < s.cfg.numDoorbells →
      ∃ t, exec (.write (.mmio .db (4 * i) 4) v) s = .next t ∧
        t = { s.finish .unit with hc := ringDoorbell s.cfg.layout s.hc i (v.setWidth 32), trace := t.trace }

/-- R54, R72, R77, R78, R306: a read of a Doorbell register, a write of a Capability register, a misaligned access, an
access at another width than the word's, and an access where a block holds no register (DEDUCED, log 31) are refused,
and nothing else changes. -/
def Obligations.ForbiddenAccessesAreRefused : Prop :=
  ∀ (shift width : Nat) (v : Word64) (s : State), Unmarked s → StandardLayout s →
    let refused := fun (is : List Instr) (why : Refusal) => ∀ i ∈ is, exec i s = .next (raiseRefusal why s)
    let every := fun (w : WordRef) =>
      [Instr.read w, .write w v, .readBits w shift width, .writeBits w shift width v]
    (∀ k, k < s.cfg.numDoorbells →
      let w := WordRef.mmio .db (4 * k) 4
      refused [.read w, .readBits w shift width, .writeBits w shift width v] .doorbellRead) ∧
    (∀ off n r, capReg s.cfg.layout off = some (r, n) →
      let w := WordRef.mmio .cap off n
      refused [.write w v, .writeBits w shift width v] .capabilityWrite) ∧
    ∀ (b : Block) (off n : Nat),
      ((n = 1 ∨ n = 2 ∨ n = 4 ∨ n = 8) → off % n ≠ 0 → refused (every (.mmio b off n)) .misaligned) ∧
      ((n = 1 ∨ n = 2 ∨ n = 4 ∨ n = 8) → off % n = 0 → ∀ r w, regAt s b off = some (r, w) → n ≠ w →
        refused (every (.mmio b off n)) .wrongWidth) ∧
      ((n = 1 ∨ n = 2 ∨ n = 4 ∨ n = 8) → off % n = 0 → regAt s b off = none →
        refused (every (.mmio b off n)) .noRegister) ∧
      (¬(n = 1 ∨ n = 2 ∨ n = 4 ∨ n = 8) → refused (every (.mmio b off n)) .wrongWidth)

/-! ### Ring Buffer (spec/42_ring_buffer.md) -/

/-- R190, R292: `TrbRing::new`, with an admissible answer of the allocator: 256 zero bytes, a cursor of 0, a live
allocation; no other byte and nothing else changes. A ring that stood at the place is dropped and its block freed (R295;
log 14). R246 names no constructor of the Event Ring: that `TrbRing::new` at the place `.event` makes it, with
`cycle_state_ours` = true, is the model's choice (DESIGN CHOICE, log 13). -/
def Obligations.TrbRingNewMakesAnEmptyRing : Prop :=
  ∀ (s : State), Unmarked s → s.mem.wf = true → admissible s 256 4096 s.draw.1 = true →
    let p := s.draw.1
    let zeroed := fun (t : State) =>
      SameOutside s t p.toNat 256 ∧ ∀ x, p.toNat ≤ x → x < p.toNat + 256 → t.mem.read x = 0
    let made := fun (o : Owned) (m : Memory) =>
      replaced o [{ base := p, size := 256, kind := .ring }] m (s.draw.2.finish (.region p 256))
    (∀ k ≤ s.bareRings.length,
      ∃ t, exec (.trbRingNew (.bare k)) s = .next t ∧ zeroed t ∧
        t = { made (.ring (.bare k)) t.mem with
          bareRings := putAt s.bareRings k { phys := p, index := 0 } }) ∧
    ∃ t, exec (.trbRingNew .event) s = .next t ∧ zeroed t ∧
      t = { made (.ring .event) t.mem with
        eventRing := some { ring := { phys := p, index := 0 }, cso := true, unread := 0 } }

/-- R153, R191, R195, R196, R213, R230: the address of slot `i`, the slot (an index of 16 or more is `F_RING_INDEX`), the
current slot and the base of a constructed ring, the Link record to it, the Command Ring's base with bit 0 set, and the
slot at a Transfer Ring's dequeue cursor and its flag (that `current` carries these inspections is the model's choice,
log 38); nothing changes. -/
def Obligations.SlotsAndAddresses : Prop :=
  ∀ (r : RingId) (b : RingBuf) (i : Nat) (s : State), Unmarked s → s.ring? r = some b → LockFree s r →
    (i < 16 →
      exec (.slotAddr r i) s = .next (s.finish (.word (b.phys + BitVec.ofNat 64 (16 * i)))) ∧
      exec (.slot r i) s = .next (s.finish (.slotRef r i))) ∧
    (16 ≤ i →
      exec (.slotAddr r i) s = .next (raiseFatal .ringIndex (held r s)) ∧
      exec (.slot r i) s = .next (raiseFatal .ringIndex (held r s))) ∧
    exec (.current (.slot r)) s = .next (s.finish (.slotRef r b.index.val)) ∧
    (∀ k t, r = .transfer k → s.transferRing? k = some t →
      exec (.current (.dequeue k)) s = .next (s.finish (.slotRef r t.deq.val)) ∧
      exec (.current (.flag k)) s = .next (s.finish (.flag t.cso))) ∧
    exec (.trbRingPhysAddr r) s = .next (s.finish (.word b.phys)) ∧
    exec (.trbLink r) s = .next (s.finish (.trb { param := b.phys, status := 0, control := 0x00001802 })) ∧
    (r = .command →
      exec .commandRingPhysAddr s = .next (s.finish (.word b.phys)) ∧
      exec .crcrValue s = .next (s.finish (.word (b.phys ||| 1))))

/-- R192, R302: `advance_index(c)` reads the control word at the cursor, then by a read and a write sets its cycle bit to
`c`, every other bit preserved, and moves the cursor to `(i + 1) mod 16`; if the bit already is `c` it is
`F_CYCLE_UNCHANGED` after the one read, and nothing was written. On the Event Ring one event counts as consumed (the
ghost of R333, log 28). -/
def Obligations.AdvanceIndexHandsTheSlotOver : Prop :=
  ∀ (r : RingId) (b : RingBuf) (c : Bool) (s : State), Unmarked s → s.ring? r = some b → b.Placed → LockFree s r →
    s.mem.wf = true →
    let seen := fun (a : Access) => (a.agent, a.kind, a.loc, a.bytes)
    let control := Loc.dma (b.phys + BitVec.ofNat 64 (16 * b.index.val) + 12)
    (slotCycle s.mem b.phys b.index.val ≠ c →
      ∃ t n, exec (.advanceIndex r c) s = .next t ∧ n.val = (b.index.val + 1) % 16 ∧
        SameOutside s t (b.phys.toNat + 16 * b.index.val + 12) 4 ∧
        slotTrb t.mem b.phys b.index.val =
          { slotTrb s.mem b.phys b.index.val with
            control := withCycle (slotTrb s.mem b.phys b.index.val).control c } ∧
        t.ring? r = some { b with index := n } ∧
        t.trace.map seen =
          (s.agent, .write, control, 4) :: (s.agent, .read, control, 4) :: (s.agent, .read, control, 4) ::
            s.trace.map seen ∧
        t = { (s.moveIndex r n).finish .unit with mem := t.mem, trace := t.trace }) ∧
    (slotCycle s.mem b.phys b.index.val = c →
      ∃ t, exec (.advanceIndex r c) s = .next t ∧ Fatal s t .cycleUnchanged r ∧
        t.trace.map seen = (s.agent, .read, control, 4) :: s.trace.map seen)

/-- R193, R303: `advance_index_notoggle(c)` reads the control word at the cursor once, moves the cursor if its cycle bit is
`c`, and writes no memory; on any other slot it is `F_CYCLE_MISMATCH`, nothing changed. On the Event Ring one event
counts as consumed (the ghost of R333, the model's reading of it: DEDUCED, log 28). -/
def Obligations.AdvanceIndexNotoggleWritesNothing : Prop :=
  ∀ (r : RingId) (b : RingBuf) (c : Bool) (s : State), Unmarked s → s.ring? r = some b → LockFree s r →
    let seen := fun (a : Access) => (a.agent, a.kind, a.loc, a.bytes)
    let read := (s.agent, AccessKind.read, Loc.dma (b.phys + BitVec.ofNat 64 (16 * b.index.val) + 12), 4)
    (slotCycle s.mem b.phys b.index.val = c →
      ∃ t n, exec (.advanceIndexNotoggle r c) s = .next t ∧ n.val = (b.index.val + 1) % 16 ∧
        t.ring? r = some { b with index := n } ∧
        t.trace.map seen = read :: s.trace.map seen ∧
        t = { (s.moveIndex r n).finish .unit with trace := t.trace }) ∧
    (slotCycle s.mem b.phys b.index.val ≠ c →
      ∃ t, exec (.advanceIndexNotoggle r c) s = .next t ∧ Fatal s t .cycleMismatch r ∧
        t.trace.map seen = read :: s.trace.map seen)

/-- R194, R343: `reset()` of a ring puts the cursor to 0 and clears the cycle bit of every slot; every other bit of
every slot and every byte outside the ring stays. -/
def Obligations.RingResetClearsCycleBits : Prop :=
  ∀ (k : Nat) (b : RingBuf) (s : State), Unmarked s → s.ring? (.bare k) = some b → b.Placed → s.mem.wf = true →
    ∃ t, exec (.trbRingReset k) s = .next t ∧ SameOutside s t b.phys.toNat 256 ∧
      (∀ j, j < 16 →
        slotTrb t.mem b.phys j =
          { slotTrb s.mem b.phys j with control := withCycle (slotTrb s.mem b.phys j).control false }) ∧
      t.ring? (.bare k) = some { b with index := 0 } ∧
      t = { (s.setIndex (.bare k) 0).finish .unit with mem := t.mem, trace := t.trace }

/-- R197: `set_link_trb()` stores the Link record to the ring's own base into slot 15, with that slot's old cycle
bit. -/
def Obligations.SetLinkTrbInstallsTheLink : Prop :=
  ∀ (r : RingId) (b : RingBuf) (s : State), Unmarked s → s.ring? r = some b → b.Placed → LockFree s r →
    s.mem.wf = true →
    ∃ t, exec (.setLinkTrb r) s = .next t ∧ Stored s t .unit (b.phys.toNat + 240) 16 ∧
      slotTrb t.mem b.phys 15 = linkRecord b.phys (slotCycle s.mem b.phys 15)

/-- R198: `skip_link` on a Link slot that is still software's hands the Link itself over and flips
`cycle_state_ours`; on any other slot it does nothing. -/
def Obligations.SkipLinkPassesTheLinkSlot : Prop :=
  ∀ (o : RingOwner) (b : RingBuf) (c : Bool) (s : State), Unmarked s → s.ring? (ownerRing o) = some b →
    s.cso? o = some c → b.Placed → LockFree s (ownerRing o) → s.mem.wf = true →
    (trbTypeOf (slotTrb s.mem b.phys b.index.val) = 6 → slotCycle s.mem b.phys b.index.val = c →
      ∃ t n, exec (.skipLink o) s = .next t ∧ n.val = (b.index.val + 1) % 16 ∧
        SameOutside s t (b.phys.toNat + 16 * b.index.val + 12) 4 ∧
        slotTrb t.mem b.phys b.index.val =
          { slotTrb s.mem b.phys b.index.val with
            control := withCycle (slotTrb s.mem b.phys b.index.val).control (!c) } ∧
        t.ring? (ownerRing o) = some { b with index := n } ∧ t.cso? o = some (!c) ∧
        t = { ((s.moveIndex (ownerRing o) n).setCso o (!c)).finish .unit with mem := t.mem, trace := t.trace }) ∧
    (trbTypeOf (slotTrb s.mem b.phys b.index.val) ≠ 6 →
      ∃ t, exec (.skipLink o) s = .next t ∧ Answered s t .unit)

/-! ### Command Ring (spec/43_command_ring.md) -/

/-- R211: `CommandRing::new` with an admissible answer of the allocator: slots 0 to 14 zero, the Link record in slot
15, cursor 0, flag false; a Command Ring that stood is dropped and its block freed (R295; log 14); nothing else
changes. -/
def Obligations.CommandRingNewInstallsTheLink : Prop :=
  ∀ (s : State), Unmarked s → s.mem.wf = true → admissible s 256 4096 s.draw.1 = true →
    let p := s.draw.1
    ∃ t, exec .commandRingNew s = .next t ∧ SameOutside s t p.toNat 256 ∧
      (∀ j, j < 15 → slotTrb t.mem p j = { param := 0, status := 0, control := 0 }) ∧
      slotTrb t.mem p 15 = { param := p, status := 0, control := 0x00001802 } ∧
      t = { replaced (.ring .command) [{ base := p, size := 256, kind := .ring }] t.mem
          (s.draw.2.finish (.region p 256)) with
        cmdRing := some { ring := { phys := p, index := 0 }, cso := false }
        trace := t.trace }

/-- R212, R343: `CommandRing::reset` clears every cycle bit, the cursor and the flag together, and nothing else. -/
def Obligations.CommandRingResetResetsRingAndFlag : Prop :=
  ∀ (c : CommandRing) (s : State), Unmarked s → s.cmdRing = some c → c.ring.Placed → s.mem.wf = true →
    ∃ t, exec .commandRingReset s = .next t ∧ SameOutside s t c.ring.phys.toNat 256 ∧
      (∀ j, j < 16 →
        slotTrb t.mem c.ring.phys j =
          { slotTrb s.mem c.ring.phys j with
            control := withCycle (slotTrb s.mem c.ring.phys j).control false }) ∧
      t = { s.finish .unit with
        mem := t.mem
        cmdRing := some { ring := { c.ring with index := 0 }, cso := false }
        trace := t.trace }

/-- R214, R216: `push(x)` between operations of the ring stores `x` into the slot at the cursor with the new cycle bit,
answers that slot's address, and moves the cursor to the next usable slot; at slot 14 it also hands the Link over
and flips the flag. Only the bytes of that slot (and the Link's control word) change. Unless `x` is a Link record, what
holds of the ring between operations holds again. R214 declares `x` a TRB of `CommandTrb::new`; that any other TRB is
pushed by the same lines is the model's choice (DESIGN CHOICE, log 41). -/
def Obligations.PushPublishesTheCommand : Prop :=
  ∀ (c : CommandRing) (x : Trb) (s : State), Unmarked s → s.cmdRing = some c →
    ProducerRing s.mem c.ring c.cso → s.mem.wf = true →
    let i := c.ring.index.val
    let base := c.ring.phys
    ∃ t n, exec (.push x) s = .next t ∧ n.val = nextUsable i ∧
      slotTrb t.mem base i = { x with control := withCycle x.control (!c.cso) } ∧
      (∀ a, (a < base.toNat + 16 * i ∨ base.toNat + 16 * i + 16 ≤ a) →
        (i = 14 → a < base.toNat + 252 ∨ base.toNat + 256 ≤ a) → t.mem.read a = s.mem.read a) ∧
      (i = 14 → slotTrb t.mem base 15 = linkRecord base (!c.cso)) ∧
      t = { s.finish (.word (base + BitVec.ofNat 64 (16 * i))) with
        mem := t.mem
        cmdRing := some { ring := { phys := base, index := n }, cso := if i = 14 then !c.cso else c.cso }
        trace := t.trace } ∧
      (trbTypeOf x ≠ 6 → t.mem.wf = true ∧ CommandRingOk t)

/-- R200, R216: after `2·(N-1)` = 30 pushes the cursor, the flag and every cycle bit are back to their values. -/
def Obligations.ThirtyPushesRestoreParity : Prop :=
  ∀ (xs : List Trb) (c : CommandRing) (s : State), xs.length = 30 → (∀ x ∈ xs, trbTypeOf x ≠ 6) → Unmarked s →
    s.mem.wf = true → s.cmdRing = some c → ProducerRing s.mem c.ring c.cso →
    ∃ t, xs.foldl
        (fun o x => match o with
          | .next u => exec (.push x) u
          | .fault f => .fault f
          | .refused r => .refused r) (Host.Outcome.next s) = .next t ∧
      t.cmdRing = some c ∧ ∀ j, j < 16 → slotCycle t.mem c.ring.phys j = slotCycle s.mem c.ring.phys j

/-! ### Transfer Ring (spec/44_transfer_ring.md) -/

/-- R226: `TransferRing::new`, when the allocator's sixteen answers are admissible and apart: a buffer for each usable
slot, the Normal record that points at it in each, the Link record in slot 15, cursors 0, flag false, lock free. A
Transfer Ring that stood at the place is dropped with its buffers (R232, R295; log 14). A configured length above 4096
is refused. -/
def Obligations.TransferRingNewPopulatesEverySlot : Prop :=
  ∀ (k : Nat) (p : Addr) (bufs rest : List Word64) (s : State), Unmarked s → StandardLayout s → s.mem.wf = true →
    k ≤ s.transferRings.length →
    (s.cfg.trTransferLen ≤ 4096 → s.supply = p :: (bufs ++ rest) → bufs.length = 15 →
      admissible s 256 4096 p = true → (∀ b ∈ bufs, admissible s 4096 4096 b = true) →
      (∀ b ∈ bufs, apart p.toNat 256 b.toNat 4096 = true) →
      bufs.Pairwise (fun a b => apart a.toNat 4096 b.toNat 4096 = true) →
      ∃ t, exec (.transferRingNew k) s = .next t ∧
        (∀ j, j < 15 →
          slotTrb t.mem p j =
            { param := bufs.getD j 0, status := BitVec.ofNat 32 s.cfg.trTransferLen, control := 0x00000424 }) ∧
        slotTrb t.mem p 15 = { param := p, status := 0, control := 0x00001802 } ∧
        (∀ b ∈ bufs, ∀ x, b.toNat ≤ x → x < b.toNat + 4096 → t.mem.read x = 0) ∧
        (∀ x, (x < p.toNat ∨ p.toNat + 256 ≤ x) → (∀ b ∈ bufs, x < b.toNat ∨ b.toNat + 4096 ≤ x) →
          t.mem.read x = s.mem.read x) ∧
        t = { replaced (.ring (.transfer k))
            ((bufs.map fun b => { base := b, size := 4096, kind := AllocKind.buffer }).reverse ++
              [{ base := p, size := 256, kind := .ring }])
            t.mem (s.finish (.region p 256)) with
          transferRings :=
            putAt s.transferRings k
              { ring := { phys := p, index := 0 }, deq := 0, cso := false, buffers := bufs, lock := .free }
          supply := rest
          trace := t.trace }) ∧
    (4096 < s.cfg.trTransferLen → exec (.transferRingNew k) s = .next (raiseRefusal .transferLen s))

/-- R227, R231: the first `fill_ring` of a constructed Transfer Ring arms slots 0 to 12 and leaves the enqueue cursor at
13, "3 slots before wraparound"; the ring is then as R231 says, and only the cycle bits of those slots changed. In the
steady state of R231 it is a no-op. -/
def Obligations.FillRingArmsUpToTheMargin : Prop :=
  (∀ (k : Nat) (r : TransferRing) (len : Nat) (s : State), Unmarked s → s.mem.wf = true →
    s.transferRing? k = some r → r.ring.Placed → r.ring.index = 0 → r.deq = 0 → r.cso = false → r.lock = .free →
    r.buffers.length = 15 → len ≤ 4096 →
    (∀ j, j < 15 →
      slotTrb s.mem r.ring.phys j =
        { param := r.buffers.getD j 0, status := BitVec.ofNat 32 len, control := 0x00000424 }) →
    slotTrb s.mem r.ring.phys 15 = linkRecord r.ring.phys false →
    ∃ t, exec (.fillRing k) s = .next t ∧ TransferRingOk t k ∧ SameOutside s t r.ring.phys.toNat 256 ∧
      (∀ j, j < 15 →
        slotTrb t.mem r.ring.phys j =
          { slotTrb s.mem r.ring.phys j with control := if j < 13 then 0x00000425 else 0x00000424 }) ∧
      t = { (s.setIndex (.transfer k) 13).finish .unit with mem := t.mem, trace := t.trace }) ∧
    ∀ (k : Nat) (s : State), Unmarked s → TransferRingOk s k → exec (.fillRing k) s = .next (s.finish .unit)

/-- R228, R231: `dequeue_trb` with the address of the slot at the dequeue cursor advances that cursor, re-arms the slot
at the enqueue cursor by its cycle bit, passes the Link when the enqueue cursor comes to it, and keeps the ring as
R231 says. Only control words change. With any other address it is `F_DEQUEUE_ADDR` (R304), checked first: nothing was
accessed, and only the lock is left held (R314). -/
def Obligations.DequeueTrbRearmsOneSlotOrIsFatal : Prop :=
  (∀ (k : Nat) (r : TransferRing) (s : State), Unmarked s → s.mem.wf = true → s.transferRing? k = some r →
    TransferRingOk s k →
    let i := r.ring.index.val
    let base := r.ring.phys
    ∃ t n d, exec (.dequeueTrb k (base + BitVec.ofNat 64 (16 * r.deq.val))) s = .next t ∧
      n.val = nextUsable i ∧ d.val = nextUsable r.deq.val ∧ TransferRingOk t k ∧ t.mem.wf = true ∧
      slotTrb t.mem base i =
        { slotTrb s.mem base i with control := withCycle (slotTrb s.mem base i).control (!r.cso) } ∧
      (∀ a, (a < base.toNat + 16 * i + 12 ∨ base.toNat + 16 * i + 16 ≤ a) →
        (i = 14 → a < base.toNat + 252 ∨ base.toNat + 256 ≤ a) → t.mem.read a = s.mem.read a) ∧
      t = { s.finish .unit with
        mem := t.mem
        transferRings :=
          s.transferRings.set k
            (some { r with
              ring := { phys := base, index := n }
              deq := d
              cso := if i = 14 then !r.cso else r.cso })
        trace := t.trace }) ∧
  ∀ (k : Nat) (r : TransferRing) (expected : Addr) (s : State), Unmarked s → s.transferRing? k = some r →
    r.lock = .free → expected ≠ r.ring.phys + BitVec.ofNat 64 (16 * r.deq.val) →
    exec (.dequeueTrb k expected) s = .next (raiseFatal .dequeueAddr (held (.transfer k) s))

/-! ### Event Ring (spec/45_event_ring.md) -/

/-- R246 to R248: `ER.reset()` clears the cycle bits and the cursor, sets the flag to true, and leaves no event posted;
`has_event()` answers whether the slot at the cursor holds our cycle bit and changes nothing; `pop()` answers the record
at the cursor, moves the cursor, flips the flag when the cursor wraps and writes no memory, and one event less is
unconsumed (the ghost of R333, log 28); on a slot that is not ours it is `F_CYCLE_MISMATCH` (R303). That `pop()`
answers only words read after a cycle bit that was ours, and is fatal where `load`'s own was not, is how the model reads
R82, R177, R248 and R311 together (DEDUCED, log 44). -/
def Obligations.EventRingResetHasEventAndPop : Prop :=
  ∀ (e : EventRing) (s : State), Unmarked s → s.eventRing = some e →
    let i := e.ring.index.val
    (∃ t, exec .hasEvent s = .next t ∧
      Answered s t (.flag (slotCycle s.mem e.ring.phys i == e.cso))) ∧
    (e.ring.Placed → s.mem.wf = true →
      ∃ t, exec .eventRingReset s = .next t ∧ SameOutside s t e.ring.phys.toNat 256 ∧
        (∀ j, j < 16 →
          slotTrb t.mem e.ring.phys j =
            { slotTrb s.mem e.ring.phys j with
              control := withCycle (slotTrb s.mem e.ring.phys j).control false }) ∧
        t = { s.finish .unit with
          mem := t.mem
          eventRing := some { ring := { e.ring with index := 0 }, cso := true, unread := 0 }
          trace := t.trace }) ∧
    (e.ring.Placed → slotCycle s.mem e.ring.phys i = e.cso →
      ∃ t n, exec .pop s = .next t ∧ n.val = (i + 1) % 16 ∧
        t = { s.finish (.trb (slotTrb s.mem e.ring.phys i)) with
          eventRing :=
            some
              { ring := { e.ring with index := n }
                cso := if i = 15 then !e.cso else e.cso
                unread := e.unread - 1 }
          trace := t.trace }) ∧
    (e.ring.Placed → slotCycle s.mem e.ring.phys i ≠ e.cso →
      ∃ t, exec .pop s = .next t ∧ Fatal s t .cycleMismatch .event)

/-! ### Register blocks (spec/46_mmio_blocks.md) -/

/-- R264, R334: `start_xhc` sets run/stop, every other bit of `USBCMD` kept, and ends when it reads halted clear. While
the controller is halted the agent holds; the run step lifts the hold, and the operation ends with the controller
`Running`. -/
def Obligations.StartXhcRunsTheController : Prop :=
  ∀ (s : State), Unmarked s → StandardLayout s →
    let asked := { s.op with usbcmd := s.op.usbcmd ||| 1 }
    (s.op.usbsts.getLsbD 0 = false →
      ∃ t, exec .startXhc s = .next t ∧ t = { s.finish .unit with op := asked, trace := t.trace }) ∧
    (s.op.usbsts.getLsbD 0 = true →
      ∃ t, exec .startXhc s = .next t ∧ holding t = true ∧
        t = { s.setCtx { s.ctx with current := t.ctx.current } with op := asked, trace := t.trace } ∧
        (s.op.usbcmd.getLsbD 1 = false → t.lifecycle = .starting ∧
          (Alone s →
            ∃ u, core.run 2 { t with turns := [.hc .run, .cpu] } = .next u ∧ u.lifecycle = .running ∧
              u = { s.finish .unit with
                op := { asked with usbsts := s.op.usbsts &&& ~~~1 }, turns := [], trace := u.trace })))

/-- R263, R273, R334, R344: `reset_xhc` clears run/stop and holds until the controller is halted, then sets HC-reset and
holds until the controller clears it. From any register state the controller's steps lift the holds: the operation
ends with the controller `Halted`, and neither memory nor any software-private state is touched; no address of a dropped
block is held any more (R346). -/
def Obligations.ResetXhcResetsTheController : Prop :=
  ∀ (s : State), Unmarked s → StandardLayout s →
    let isHalted := s.op.usbsts.getLsbD 0
    (isHalted = false →
      ∃ t, exec .resetXhc s = .next t ∧ holding t = true ∧
        t = { s.setCtx { s.ctx with current := t.ctx.current } with
          op := { s.op with usbcmd := s.op.usbcmd &&& ~~~1 }, trace := t.trace }) ∧
    (isHalted = true →
      ∃ t, exec .resetXhc s = .next t ∧ holding t = true ∧
        t = { s.setCtx { s.ctx with current := t.ctx.current } with
          op := { s.op with usbcmd := (s.op.usbcmd &&& ~~~1) ||| 2 }, trace := t.trace }) ∧
    let stopping :=
      if isHalted then []
      else if s.op.usbcmd.getLsbD 1 then [.hc .resetComplete, .cpu]
      else [.hc .halt, .cpu]
    let turns := stopping ++ [.hc .resetComplete, .cpu]
    (Alone s →
      ∃ t u, exec .resetXhc s = .next t ∧ core.run turns.length { t with turns := turns } = .next u ∧
        u.lifecycle = .halted ∧
        u = { s.finish .unit with
          op := u.op
          hc := u.hc
          stale := []
          turns := []
          supply := u.supply
          hcSupply := u.hcSupply
          drawn := u.drawn
          trace := u.trace })

/-- R265 to R267, R117: the three setters and a `CRCRWORD`. `DCBAAP` and `CRCR` take the value by one 8-byte write and
no read (D10); `CONFIG` keeps bits 31:8. Written while the controller is halted, `CRCR` loads its pointer and cycle
state. Written while it is not, the register takes the value, and what the controller's pointer and cycle state become
is the model's free value (log 17; R266 calls that outside the spec). The ghost list of the addresses the controller
holds gains the one it is given (R295; DESIGN CHOICE, log 49). -/
def Obligations.SettersWriteTheirRegisters : Prop :=
  ∀ (addr value : Word64) (n : BitVec 8) (base : BitVec 58) (s : State), Unmarked s → StandardLayout s →
    let crcr := fun (i : Instr) (v : Word64) =>
      (halted s.cfg.layout s.op.usbsts = true →
        ∃ t, exec i s = .next t ∧
          t = { s.finish .unit with
            op := { s.op with crcr := v }
            hc := { learn [v &&& ~~~0x3F#64] s.hc with cmd := { p := v &&& ~~~0x3F#64, ccs := v.getLsbD 0 } }
            trace := t.trace }) ∧
      (halted s.cfg.layout s.op.usbsts = false →
        ∃ t c, exec i s = .next t ∧
          t = { s.draw.2.finish .unit with
            op := { s.op with crcr := v }
            hc := { learn [v &&& ~~~0x3F#64] s.hc with cmd := c }
            trace := t.trace }) ∧
      (s.cfg.split64 = false →
        ∃ t, exec i s = .next t ∧
          t.trace = { agent := s.agent, kind := .write, loc := .reg .crcr, bytes := 8, value := v } :: s.trace)
    (∃ t, exec (.setDcbaaPtr addr) s = .next t ∧
      t = { s.finish .unit with
        op := { s.op with dcbaap := addr }, hc := learn [addr] s.hc, trace := t.trace } ∧
      (s.cfg.split64 = false →
        t.trace = { agent := s.agent, kind := .write, loc := .reg .dcbaap, bytes := 8, value := addr } :: s.trace)) ∧
    crcr (.setCmdRingCtrl value) value ∧ crcr (.crcrword base) (BitVec.ofNat 64 (base.toNat * 64 + 1)) ∧
    ∃ t, exec (.setNumDeviceSlots n) s = .next t ∧
      t = { s.finish .unit with
        op := { s.op with config := (s.op.config &&& 0xFFFFFF00) ||| n.setWidth 32 }, trace := t.trace }

/-- R268, R116: `notify` and a `DBWORD` write exactly one 32-bit word, `target | (stream_id << 16)`, and read nothing; the
register's lock is free again; nothing but the controller's pending doorbells changes (R336): register 0 with target 0
is the Command Ring, register `s` with target `t` the ring of endpoint `t` of slot `s`, and a ring the controller does
not know is ignored. A wide operand and a register index beyond `NUM_DOORBELLS` are refused. -/
def Obligations.NotifyWritesOneDoorbellWord : Prop :=
  ∀ (reg target stream : Nat) (s : State), Unmarked s → StandardLayout s →
    (target < 256 → stream < 65536 → reg < s.cfg.numDoorbells → s.lock? (.doorbell reg) = some .free →
      ∃ pending,
        let after : State := { s.finish .unit with
          hc := { s.hc with pending := pending }
          trace :=
            { agent := s.agent, kind := .write, loc := .reg (.doorbell reg), bytes := 4,
              value := BitVec.ofNat 64 (target + stream * 65536) } :: s.trace }
        exec (.notify reg target stream) s = .next after ∧
        exec (.dbword reg (BitVec.ofNat 8 target) (BitVec.ofNat 16 stream)) s = .next after ∧
        (reg = 0 → target = 0 → ∀ r, r ∈ pending ↔ r ∈ s.hc.pending ∨ r = .command) ∧
        (∀ k e, reg ≠ 0 → s.hc.endpoints[k]? = some e → e.slot.toNat = reg → e.endpoint.toNat = target →
          (∀ j < k, ∀ x, s.hc.endpoints[j]? = some x → ¬(x.slot.toNat = reg ∧ x.endpoint.toNat = target)) →
          ∀ r, r ∈ pending ↔ r ∈ s.hc.pending ∨ r = .endpoint k) ∧
        (¬(reg = 0 ∧ target = 0) →
          (∀ x ∈ s.hc.endpoints, ¬(reg ≠ 0 ∧ x.slot.toNat = reg ∧ x.endpoint.toNat = target)) →
          pending = s.hc.pending)) ∧
    (¬(target < 256 ∧ stream < 65536) →
      exec (.notify reg target stream) s = .next (raiseRefusal .operandWidth s)) ∧
    (target < 256 → stream < 65536 → s.cfg.numDoorbells ≤ reg →
      exec (.notify reg target stream) s = .next (raiseRefusal .doorbellIndex s) ∧
      exec (.dbword reg (BitVec.ofNat 8 target) (BitVec.ofNat 16 stream)) s = .next (raiseRefusal .doorbellIndex s))

/-- R59, R85, R275, R367: an operation that meets a held lock does not proceed, also if the same agent holds it: nothing
but the operation in progress is recorded. A CPU agent that has the turn and holds has no step: its turn changes
nothing but the note of which status bit it awaits. R85 and R229 name `fill_ring`, `dequeue_trb` and inspection; that the ring operations called on a Transfer Ring
directly take its lock too is the model's choice (DEDUCED, log 23). -/
def Obligations.HeldLockIsWaitedFor : Prop :=
  (∀ (k reg target stream : Nat) (a : CpuAgent) (c : Bool) (p : Addr) (x : Trb) (s : State), Unmarked s →
    target < 256 → stream < 65536 → reg < s.cfg.numDoorbells →
    let waits := fun (i : Instr) =>
      ∃ t, exec i s = .next t ∧ holding t = true ∧ t = s.setCtx { s.ctx with current := t.ctx.current }
    (s.lock? (.doorbell reg) = some (.held a) →
      waits (.notify reg target stream) ∧ waits (.dbword reg (BitVec.ofNat 8 target) (BitVec.ofNat 16 stream))) ∧
    (s.lock? (.ring k) = some (.held a) →
      ∀ i ∈ [Instr.fillRing k, .dequeueTrb k p, .advanceIndex (.transfer k) c, .advanceIndexNotoggle (.transfer k) c,
          .skipLink (.transfer k), .store (.transfer k) 0 x, .load (.transfer k) 0, .slot (.transfer k) 0,
          .setLinkTrb (.transfer k), .getUncheckedMut (.buffer k 0), .current (.slot (.transfer k)),
          .current (.dequeue k), .current (.flag k)],
        waits i)) ∧
  ∀ (ts : List Turn) (op : Pending) (s : State), Unmarked s →
    let d := dispatch { s with turns := ts }
    d.ctx.current = some op → holding d = true →
      ∃ on,
        let same : Host.Outcome State Fault Refusal := .next (d.suspend op.instr op.answers on)
        step { s with turns := .cpu :: ts } = same ∧ step { s with turns := .access :: ts } = same ∧
          (ts = [] → step { s with turns := [] } = same)

/-! ### Pinned DMA memory and the DCBAA (spec/47_pinned_dma.md) -/

/-- R290, R292, R293, R296: `Pinned::new` with an admissible answer of the allocator: a block of zeros at that address,
page-aligned if shared with the controller, apart from every live allocation; a buffer that stood at the place is
dropped (R295; log 14); nothing else changes. In each constructor, an answer that is not admissible is the allocator
declining (log 15): `F_DMA_ALLOC`, and nothing was allocated or written. -/
def Obligations.PinnedNewAllocatesOrIsFatal : Prop :=
  ∀ (k size align : Nat) (shared : Bool) (s : State), Unmarked s →
    let p := s.draw.1
    let a := if shared then max align 4096 else align
    (k ≤ s.pinned.length → 0 < size → 0 < align → s.mem.wf = true → admissible s size a p = true →
      p.toNat % a = 0 ∧ p.toNat + size ≤ 2 ^ 64 ∧
      (∀ l ∈ s.allocs, p.toNat + size ≤ l.base.toNat ∨ l.base.toNat + l.size ≤ p.toNat) ∧
      ∃ t, exec (.pinnedNew k size align shared) s = .next t ∧ SameOutside s t p.toNat size ∧
        (∀ x, p.toNat ≤ x → x < p.toNat + size → t.mem.read x = 0) ∧
        t = { replaced (.pinned k) [{ base := p, size := size, kind := .other }] t.mem
            (s.draw.2.finish (.region p size)) with
          pinned := putAt s.pinned k { phys := p, size := size } }) ∧
    (k ≤ s.pinned.length → 0 < size → 0 < align → admissible s size a p = false →
      exec (.pinnedNew k size align shared) s = .next (raiseFatal .dmaAlloc s)) ∧
    (admissible s 256 4096 p = false →
      (k ≤ s.bareRings.length → exec (.trbRingNew (.bare k)) s = .next (raiseFatal .dmaAlloc s)) ∧
      exec (.trbRingNew .event) s = .next (raiseFatal .dmaAlloc s) ∧
      exec .commandRingNew s = .next (raiseFatal .dmaAlloc s) ∧
      (k ≤ s.transferRings.length → s.cfg.trTransferLen ≤ 4096 →
        exec (.transferRingNew k) s = .next (raiseFatal .dmaAlloc s))) ∧
    (admissible s 2048 4096 p = false → exec .dcbaaNew s = .next (raiseFatal .dmaAlloc s))

/-- R291, R294, R230, R305: `phys_addr()` of every kind of owner answers the address its block was given, and
`get_unchecked_mut()` the block's bytes; neither changes anything. A buffer index of 15 or more is `F_RING_INDEX`. -/
def Obligations.AddressesOfAllocations : Prop :=
  ∀ (s : State), Unmarked s →
    let names := fun (a : AllocRef) (p : Addr) (size : Nat) =>
      exec (.pinnedPhysAddr a) s = .next (s.finish (.word p)) ∧
        exec (.getUncheckedMut a) s = .next (s.finish (.region p size))
    (∀ j b, s.pinnedBuf? j = some b → b.size < 2 ^ 64 → names (.pinned j) b.phys b.size) ∧
    (∀ r b, s.ring? r = some b → LockFree s r → names (.ring r) b.phys 256) ∧
    (∀ b, s.dcbaa = some b → names .dcbaa b 2048) ∧
    ∀ j i t, s.transferRing? j = some t → t.lock = .free →
      (∀ b, t.buffers[i]? = some b → names (.buffer j i) b 4096) ∧
      (t.buffers.length = 15 → 15 ≤ i →
        exec (.pinnedPhysAddr (.buffer j i)) s = .next (raiseFatal .ringIndex (held (.transfer j) s)) ∧
        exec (.getUncheckedMut (.buffer j i)) s = .next (raiseFatal .ringIndex (held (.transfer j) s)))

/-- R297, R119: `Dcbaa::new` makes 256 entries of 0 (a DCBAA that stood is dropped, log 14); `set_entry(i, addr)` and a `DCBAAENT` store the 8 bytes of entry `i`
and nothing else; `entry(i)` answers them; an index of 256 or more is refused. -/
def Obligations.DcbaaEntriesAreStoredAndRead : Prop :=
  ∀ (i : Nat) (addr : Word64) (s : State), Unmarked s → s.mem.wf = true →
    (admissible s 2048 4096 s.draw.1 = true →
      ∃ t, exec .dcbaaNew s = .next t ∧ SameOutside s t s.draw.1.toNat 2048 ∧
        (∀ x, s.draw.1.toNat ≤ x → x < s.draw.1.toNat + 2048 → t.mem.read x = 0) ∧
        t = { replaced .dcbaa [{ base := s.draw.1, size := 2048, kind := .dcbaa }] t.mem
            (s.draw.2.finish (.region s.draw.1 2048)) with
          dcbaa := some s.draw.1 }) ∧
    (∀ b, s.dcbaa = some b → b.toNat + 2048 ≤ 2 ^ 64 → i < 256 →
      let at_ := b + BitVec.ofNat 64 (8 * i)
      (∃ t, exec (.dcbaaSetEntry i addr) s = .next t ∧ exec (.dcbaaent i addr) s = .next t ∧
        Stored s t .unit (b.toNat + 8 * i) 8 ∧ t.mem.readWord at_ 8 = addr) ∧
      ∃ t, exec (.dcbaaEntry i) s = .next t ∧ Answered s t (.word (s.mem.readWord at_ 8))) ∧
    (256 ≤ i →
      exec (.dcbaaSetEntry i addr) s = .next (raiseRefusal .dcbaaIndex s) ∧
      exec (.dcbaaent i addr) s = .next (raiseRefusal .dcbaaIndex s) ∧
      exec (.dcbaaEntry i) s = .next (raiseRefusal .dcbaaIndex s))

/-- R232, R295, R346, R368: dropping an owner between operations. Its place is empty and its blocks are no longer live;
those whose address the controller may hold stay in its reach until it is reset, and none does if it has been given no
address since its last completed reset; every byte of memory and everything else stays. Where the invariant holds,
each block that was live may be drawn again by a later `new`. In the middle of an operation nothing is dropped. That a
turn drops an owner, which is no row of the opcode table, and the list of what the controller holds, are the model's
choice (DESIGN CHOICE, log 39, 49). -/
def Obligations.DroppedOwnersFreeTheirBlocks : Prop :=
  ∀ (o : Owned) (s : State) (ts : List Turn), Unmarked s →
    let d := dispatch { s with turns := ts }
    let blocks := ownedBlocks o s
    (d.ctx.current ≠ none → step { s with turns := .drop o :: ts } = .next d) ∧
    (d.ctx.current = none →
      ∃ t, step { s with turns := .drop o :: ts } = .next t ∧ ownedBlocks o t = [] ∧
        (∀ r, t.ring? r = if o = .ring r then none else s.ring? r) ∧
        (∀ j, t.transferRing? j = if o = .ring (.transfer j) then none else s.transferRing? j) ∧
        (∀ j, t.pinnedBuf? j = if o = .pinned j then none else s.pinnedBuf? j) ∧
        (∀ a, a ∈ t.allocs ↔ a ∈ s.allocs ∧ a.base ∉ blocks) ∧
        (∀ a, a ∈ t.stale ↔ a ∈ s.stale ∨ a ∈ s.allocs ∧ a.base ∈ blocks ∧ inReach s a = true) ∧
        (s.hc.known = [] → s.hc.held = [] → t.stale = s.stale) ∧
        t = { d with
          allocs := t.allocs
          stale := t.stale
          cmdRing := if o = .ring .command then none else s.cmdRing
          transferRings := t.transferRings
          eventRing := if o = .ring .event then none else s.eventRing
          bareRings := t.bareRings
          pinned := t.pinned
          dcbaa := if o = .dcbaa then none else s.dcbaa } ∧
        (s.Inv → ∀ a ∈ s.allocs, a.base ∈ blocks → a.kind ≠ .other → admissible t a.size 4096 a.base = true))

/-! ### Precise fatals (spec/60_exceptions.md) -/

/-- R300, R312, D23: an operation that ends in a fatal made its checks before its writes. A fatal of `push`, `fill_ring`
or `skip_link` leaves the state before the operation; one of `dequeue_trb` leaves it so too, but that after the address
was found right the dequeue cursor has been advanced (R228). One of `TransferRing::new` has stored no record: the blocks
it allocated before the allocation that failed stay allocated, zeroed (R292, R296), and nothing else changed. `push` on a slot that already holds the new cycle bit is
such a fatal. That the check is a look ahead that makes no access is the model's choice (log 37). -/
def Obligations.ChecksComeBeforeWrites : Prop :=
  (∀ (x : Trb) (k : Nat) (p : Addr) (o : RingOwner) (s t : State), Unmarked s → t.faulted ≠ none →
    (exec (.push x) s = .next t → Fatal s t .cycleUnchanged .command) ∧
    (exec (.fillRing k) s = .next t → Fatal s t .cycleUnchanged (.transfer k)) ∧
    (exec (.skipLink o) s = .next t → Fatal s t .cycleUnchanged (ownerRing o)) ∧
    (exec (.dequeueTrb k p) s = .next t →
      ∃ r, s.transferRing? k = some r ∧
        if p = r.ring.phys + BitVec.ofNat 64 (16 * r.deq.val) then
          Fatal (s.setDeq k (r.deq + 1)) t .cycleUnchanged (.transfer k)
        else Fatal s t .dequeueAddr (.transfer k)) ∧
    (exec (.transferRingNew k) s = .next t →
      ∃ made,
        let inside := fun (a : Nat) => ∃ l ∈ made, l.base.toNat ≤ a ∧ a < l.base.toNat + l.size
        (∀ a, inside a → t.mem.read a = 0) ∧ (∀ a, ¬inside a → t.mem.read a = s.mem.read a) ∧
        t = { raiseFatal .dmaAlloc s with
          mem := t.mem, allocs := made ++ s.allocs, supply := t.supply, drawn := t.drawn })) ∧
    ∀ (x : Trb) (c : CommandRing) (s : State), Unmarked s → s.cmdRing = some c → c.ring.Placed → s.mem.wf = true →
      slotCycle s.mem c.ring.phys c.ring.index.val ≠ c.cso → exec (.push x) s = .next (raiseFatal .cycleUnchanged s)

/-! ### Records and their consumers (spec/41_trb_codec.md rules R164 to R174, spec/60_exceptions.md) -/

/-- R164 to R174: each of the 64 record instructions (`reserved0` to `vendor63`, R103), held by software as a value, answers
what the accessors and the view of its type say of it: the class, cycle bit, slot id, parameter and toggle-cycle bit,
and for types 32, 33 and 34 the fields of R171 to R173. Nothing else changes. That software executes a record by
reading it is the model's choice (log 9). -/
def Obligations.RecordValueIsRead : Prop :=
  ∀ (code : BitVec 6) (r : Rec) (s : State), Unmarked s → s.serving = .value → StandardLayout s →
    let word := fun {n : Nat} (v : BitVec n) => v.setWidth 64
    exec (recordOf code r) s =
      .next (s.finish (.record
        { cls := classOf .standard code
          cycle := r.cycle
          slot := r.slot
          data := r.param
          toggle := r.flags.getLsbD 0
          event :=
            if code = 32 then
              .transfer r.param (word (r.status.extractLsb' 0 24)) (word (r.status.extractLsb' 24 8))
                (word (r.mid.extractLsb' 0 5)) r.slot
            else if code = 33 then .completion r.param (word (r.status.extractLsb' 24 8)) r.slot
            else if code = 34 then .port (word (r.param.extractLsb' 24 8)) (word (r.status.extractLsb' 24 8))
            else .uniform }))

/-- R331 with R332: the controller's consume step on a record of any of the 64 types. A record whose cycle bit is not
the ring's cycle state is not consumed: the ring's pending doorbell is cleared. A Link moves the pointer to its
target and, with TC, inverts the cycle state. On the Command Ring every other record moves the pointer by 16 and
enqueues a Command Completion Event that names it, with the reserved bits of R104 zero. Nothing else changes: that the
command's own effect, which R331 calls opaque, leaves the controller's other hidden state as it is, is the model's
choice (DESIGN CHOICE, log 43). -/
def Obligations.ControllerConsumesRecords : Prop :=
  ∀ (code : BitVec 6) (r : Rec) (sel : RingSel) (ring : HcRing) (s : State), s.serving = .hc sel →
    StandardLayout s → hcRing? s.hc sel = some ring →
    (r.cycle ≠ ring.ccs →
      ∃ pending, exec (recordOf code r) s = .next { s with hc := { s.hc with pending := pending } } ∧
        ∀ x, x ∈ pending ↔ x ∈ s.hc.pending ∧ x ≠ sel) ∧
    (r.cycle = ring.ccs → code = 6 →
      exec (recordOf code r) s =
        .next { s with
          hc := setHcRing s.hc sel
            { p := r.param &&& ~~~0xF#64, ccs := if r.flags.getLsbD 0 then !ring.ccs else ring.ccs } }) ∧
    (r.cycle = ring.ccs → code ≠ 6 → sel = .command →
      ∃ t ev, exec (recordOf code r) s = .next t ∧ ev.param = ring.p ∧ trbTypeOf ev = 33 ∧
        ev.control.extractLsb' 7 2 = 0 ∧ ev.control.extractLsb' 16 8 = 0 ∧
        t = { s with
          hc :=
            { s.hc with
              cmd := { p := ring.p + 16, ccs := ring.ccs }
              unposted := s.hc.unposted ++ [ev] }
          supply := t.supply
          drawn := t.drawn })

/-- R332: a Normal record of an endpoint's ring is executed, in the consume step, or after it had been fetched before
(R295: that the fetch may be a step of its own is the model's reading, log 46). Some number `n` of bytes, at most the
length, is transferred: with `IDT` = 0 they are written from `param` on, each where the controller may write (R337, U23);
with `IDT` = 1 `param` holds the data itself (R104) and no memory is written (DEDUCED, log 10). The pointer moves past
the slot; a Transfer Event that names the record is enqueued, its length field the residual, its completion code 1 only
if nothing is left and 13 only if something is, the reserved bits of R104 zero. Conversely every number of bytes that lie
where the controller may write is a behaviour of the model, for some free values (log 21). -/
def Obligations.NormalRecordTransfersData : Prop :=
  ∀ (a : Addr) (slot : BitVec 8) (endpoint : BitVec 5) (moved : List HcEndpoint) (r : Rec) (s : State),
    ExecutesTransfer s r.cycle a slot endpoint moved → StandardLayout s → s.mem.wf = true →
    let len := (r.status.extractLsb' 0 17).toNat
    let written := fun (n : Nat) => if r.flags.getLsbD 5 then 0 else n
    let ends := fun (n : Nat) (u t : State) =>
      SameOutside u t r.param.toNat (written n) ∧ t.mem.wf = true ∧
      (∀ x, r.param.toNat ≤ x → x < r.param.toNat + written n → dataByte u a x = true) ∧
      ∃ ev,
        ev.param = a ∧ trbTypeOf ev = 32 ∧ trbSlotId ev = slot ∧ ev.control.extractLsb' 16 5 = endpoint ∧
        ev.control.extractLsb' 7 2 = 0 ∧ ev.control.extractLsb' 21 3 = 0 ∧
        (ev.status.extractLsb' 0 24).toNat = len - n ∧
        (ev.status.extractLsb' 24 8 = 1 → n = len) ∧ (ev.status.extractLsb' 24 8 = 13 → n < len) ∧
        t = { u with
          mem := t.mem
          hc := { u.hc with endpoints := moved, unposted := u.hc.unposted ++ [ev] }
          supply := t.supply
          drawn := t.drawn }
    (∃ t n, exec (.normal r) s = .next t ∧ n ≤ len ∧ ends n s t) ∧
    ∀ n ≤ len, (∀ x, r.param.toNat ≤ x → x < r.param.toNat + written n → dataByte s a x = true) →
      ∃ sup t, exec (.normal r) { s with supply := sup } = .next t ∧ ends n { s with supply := sup } t

/-- Any other record of an endpoint's ring but a Link is executed, in the consume step or after it had been fetched
before (R295, log 46). What R332 leaves open is the model's choice (log 10): the pointer moves past the slot; data comes
in only through a Data Stage with `DIR` = 1 and `IDT` = 0, where the controller may write (R337, U23); a Transfer Event
that names the record is enqueued if it is a transfer TRB with IOC, or a Data Stage or Isoch with ISP that completed
short (R104, R316), and else no event. -/
def Obligations.OtherTransferRecordsComplete : Prop :=
  ∀ (a : Addr) (slot : BitVec 8) (endpoint : BitVec 5) (moved : List HcEndpoint) (code : BitVec 6) (r : Rec) (s : State),
    ExecutesTransfer s r.cycle a slot endpoint moved → StandardLayout s → code ≠ 6 → code ≠ 1 → s.mem.wf = true →
    let len := (r.status.extractLsb' 0 17).toNat
    ∃ t n, exec (recordOf code r) s = .next t ∧ n ≤ len ∧ SameOutside s t r.param.toNat n ∧
      (¬(code = 3 ∧ r.mid.getLsbD 0 = true ∧ r.flags.getLsbD 5 = false) → t.mem = s.mem) ∧
      (∀ x, t.mem.read x ≠ s.mem.read x → dataByte s a x = true) ∧
      (if (1 ≤ code.toNat ∧ code.toNat ≤ 8 ∧ r.flags.getLsbD 4 = true) ∨
          ((code = 3 ∨ code = 5) ∧ r.flags.getLsbD 1 = true ∧ n < len) then
        ∃ ev, t.hc.unposted = s.hc.unposted ++ [ev] ∧ ev.param = a ∧ trbTypeOf ev = 32 ∧
          trbSlotId ev = slot ∧ ev.control.extractLsb' 16 5 = endpoint ∧
          (ev.status.extractLsb' 0 24).toNat = len - n
      else t.hc.unposted = s.hc.unposted) ∧
      t = { s with
        mem := t.mem
        hc := { s.hc with endpoints := moved, unposted := t.hc.unposted }
        supply := t.supply
        drawn := t.drawn }

/-- R333: the post step. While the controller runs, an event waits and fewer than 16 events are unconsumed, the oldest
event is written into slot `q` with bit 0 = `pcs`; `q` moves on modulo 16, and `pcs` flips when it wraps. Otherwise
nothing is posted. (How many are unconsumed is counted by a ghost: log 28. That the controller posts into the Event
Ring that stands is the model's choice: R245 leaves open how it learns the address, log 36.) -/
def Obligations.PostStepWritesOneEvent : Prop :=
  ∀ (e : EventRing) (s : State) (ts : List Turn), s.eventRing = some e → e.ring.Placed →
    insideLive s (slotAt e.ring.phys s.hc.q.val) 16 = true →
    (∀ ev evs, s.hc.unposted = ev :: evs → s.lifecycle = .running → e.unread < 16 → s.mem.wf = true →
      ∃ t q, step { s with turns := .hc .post :: ts } = .next t ∧ q.val = (s.hc.q.val + 1) % 16 ∧
        SameOutside s t (e.ring.phys.toNat + 16 * s.hc.q.val) 16 ∧
        slotTrb t.mem e.ring.phys s.hc.q.val = { ev with control := withCycle ev.control s.hc.pcs } ∧
        t = { s with
          mem := t.mem
          eventRing := some { e with unread := e.unread + 1 }
          hc :=
            { learn [slotAt e.ring.phys s.hc.q.val] s.hc with
              unposted := evs, q := q, pcs := if s.hc.q.val = 15 then !s.hc.pcs else s.hc.pcs }
          turns := ts }) ∧
    (s.hc.unposted = [] ∨ s.lifecycle ≠ .running ∨ 16 ≤ e.unread →
      step { s with turns := .hc .post :: ts } = .next { s with turns := ts })

/-- R334: the register steps, each enabled exactly as its row says; a step that is not enabled changes nothing. Memory
and software-private state are untouched (R335, R344). The controller's consume and post steps write no register. After
reset-complete the controller may hold no address of a dropped block (R346): it holds no record fetched before (DESIGN
CHOICE, log 27), and the ghost lists of such blocks and of the addresses it has been given, empty then, are the model's
own (DESIGN CHOICE, log 39, 49). -/
def Obligations.RegisterStepsOfTheController : Prop :=
  ∀ (s : State) (ts : List Turn), StandardLayout s →
    let after := fun (h : HcStep) => step { s with turns := .hc h :: ts }
    let same : Host.Outcome State Fault Refusal := .next { s with turns := ts }
    let rs := s.op.usbcmd.getLsbD 0
    let hcrst := s.op.usbcmd.getLsbD 1
    let hch := s.op.usbsts.getLsbD 0
    (rs = false → hcrst = false → hch = false →
      after .halt = .next { s with turns := ts, op := { s.op with usbsts := s.op.usbsts ||| 1 } }) ∧
    (¬(rs = false ∧ hcrst = false ∧ hch = false) → after .halt = same) ∧
    (rs = true → hcrst = false → hch = true →
      after .run = .next { s with turns := ts, op := { s.op with usbsts := s.op.usbsts &&& ~~~1 } }) ∧
    (¬(rs = true ∧ hcrst = false ∧ hch = true) → after .run = same) ∧
    (hcrst = true →
      ∃ t, after .resetComplete = .next t ∧ t.lifecycle = .halted ∧
        t = { s with
          turns := ts, op := t.op, hc := { t.hc with held := [], known := [] }, stale := [], supply := t.supply, hcSupply := t.hcSupply,
          drawn := t.drawn }) ∧
    (hcrst = false → after .resetComplete = same) ∧
    ∀ h t, h = .post ∨ (∃ sel, h = .consume sel) ∨ (∃ k, h = .fetch k ∨ h = .complete k) → after h = .next t →
      t.op = s.op

/-- R335, R337: what the controller's steps do not write. No step of the controller changes software-private state (but for
the ghost that counts posted events), a mark, a live allocation or a Capability register. A byte of memory it changes
lies where the controller, executing the record of the slot at the ring's pointer or of the slot it fetched it from, may
write a data buffer, or in the Event Ring when it posts. Such a byte belongs to no ring and not to the DCBAA, unless its address is one the controller may still hold
from a dropped owner (R295). -/
def Obligations.ControllerWritesNoRingNorDcbaa : Prop :=
  ∀ (h : HcStep) (s t : State) (ts : List Turn), s.Inv → (∀ e, s.eventRing = some e → e.ring.Placed) →
    step { s with turns := .hc h :: ts } = .next t →
    t = { s with
      mem := t.mem
      eventRing := t.eventRing
      op := t.op
      hc := t.hc
      stale := t.stale
      turns := ts
      serving := t.serving
      supply := t.supply
      hcSupply := t.hcSupply
      drawn := t.drawn } ∧
    t.eventRing.map (fun e => { e with unread := 0 }) = s.eventRing.map (fun e => { e with unread := 0 }) ∧
    ∀ a, t.mem.read a ≠ s.mem.read a →
      (∃ p, dataByte s p a = true ∧ protectedByte s a = false ∧
        ((∃ sel ring, h = .consume sel ∧ hcRing? s.hc sel = some ring ∧ p = ring.p) ∨
          ∃ j x, h = .complete j ∧ s.hc.held[j]? = some x ∧ p = x.addr)) ∨
      h = .post ∧ ∃ e, s.eventRing = some e ∧ e.ring.phys.toNat ≤ a ∧ a < e.ring.phys.toNat + 256

/-! ### Steps, agents, the invariant -/

/-- A turn of a CPU agent with no operation in progress runs the next operation of its list: the step is `exec` of that
instruction, in the state with the operation taken off the list. R329's step is one access; that a turn runs a whole
operation, and that the turn is the CPU's when the interleaving says no more, is the model's choice (DESIGN CHOICE,
log 7), as is which CPU agent has the turn while a handler holds (log 22). -/
def Obligations.StepRunsTheNextOperation : Prop :=
  ∀ (s : State) (i : Instr) (rest : List Instr) (ts : List Turn), Unmarked s →
    let d := dispatch s
    d.ctx.current = none → d.ctx.program = i :: rest →
    let taken := { d.setCtx { d.ctx with program := rest } with serving := .value }
    step { s with turns := .cpu :: ts } = exec i { taken with turns := ts } ∧
    (s.turns = [] → step s = exec i taken)

/-- R82, R330, R331, R337: the controller's consume step fetches the 16 bytes at the ring's pointer, which always decode to
an instruction, and is `exec` of that instruction on the controller's behalf. It fetches only while it runs, from a
16-aligned pointer inside a live allocation, and from a ring it knows; otherwise nothing changes. R337 binds only while
nothing is dropped in the controller's reach (R295, U23): of a freed block whose address it may still hold it reads 16
free bytes. A transfer TRB may also be fetched in a step of its own and executed in a later one, which is `exec` of the
record that was fetched, whatever has become of the ring (R295: "a Normal TRB it has fetched"); until then its ring is
not fetched from again. The ghost list of the addresses the controller holds gains the slot's and the record's, if the
record is its own (log 49). That the fetch may be a step of its own, and that the bytes of a freed block are free, are the
model's choices (log 46). -/
def Obligations.ControllerStepRunsTheFetchedRecord : Prop :=
  ∀ (s : State) (ts : List Turn),
    let after := fun (h : HcStep) => step { s with turns := .hc h :: ts }
    let same : Host.Outcome State Fault Refusal := .next { s with turns := ts }
    (∀ sel,
      (∀ ring, hcRing? s.hc sel = some ring →
        (s.lifecycle = .running → ring.p.toNat % 16 = 0 → holdsFrom s.hc sel = false →
          (insideLive s ring.p 16 = true →
            ∃ i, decode s.cfg.layout .trb (fetchBytes s ring.p) = .ok i ∧
              after (.consume sel) =
                exec i
                  { s with
                    turns := ts
                    hc := learnRecord ring (trbOfBytes (fetchBytes s ring.p)) s.hc
                    serving := .hc sel }) ∧
          (insideLive s ring.p 16 = false → insideStale s ring.p 16 = true →
            let bytes := bytesOf 8 s.draw.1 ++ bytesOf 8 s.draw.2.draw.1
            ∃ i, decode s.cfg.layout .trb bytes = .ok i ∧
              after (.consume sel) =
                exec i
                  { s.draw.2.draw.2 with
                    turns := ts, hc := learnRecord ring (trbOfBytes bytes) s.hc, serving := .hc sel })) ∧
        (ring.p.toNat % 16 ≠ 0 ∨ (insideLive s ring.p 16 = false ∧ insideStale s ring.p 16 = false) ∨
          holdsFrom s.hc sel = true → after (.consume sel) = same)) ∧
      (hcRing? s.hc sel = none ∨ s.lifecycle ≠ .running → after (.consume sel) = same)) ∧
    (∀ k e, s.hc.endpoints[k]? = some e →
      (s.lifecycle = .running → e.ring.p.toNat % 16 = 0 → holdsFrom s.hc (.endpoint k) = false →
        insideLive s e.ring.p 16 = true →
        let t := trbOfBytes (fetchBytes s e.ring.p)
        let h : HeldTrb := { owner := some k, slot := e.slot, endpoint := e.endpoint, addr := e.ring.p, trb := t }
        after (.fetch k) =
          if trbCycle t = e.ring.ccs ∧ trbTypeOf t ≠ 6 then
            .next { s with
              turns := ts, hc := learn [h.addr, t.param] { s.hc with held := s.hc.held ++ [h] } }
          else same) ∧
      (holdsFrom s.hc (.endpoint k) = true → after (.fetch k) = same)) ∧
    (∀ j h, s.hc.held[j]? = some h → s.lifecycle = .running →
      ∃ i, decode s.cfg.layout .trb (trbBytes h.trb) = .ok i ∧
        after (.complete j) =
          exec i
            { s with turns := ts, hc := { s.hc with held := s.hc.held.eraseIdx j }, serving := .held h }) ∧
    ∀ k, (s.hc.endpoints[k]? = none ∨ s.lifecycle ≠ .running → after (.fetch k) = same) ∧
      (s.hc.held[k]? = none ∨ s.lifecycle ≠ .running → after (.complete k) = same)

/-- R315, R317, R318: a handler begins only while an event is posted and not consumed and no handler runs (handlers do not
nest); it may begin in the middle of an operation of SW, as R318 says and against D24 (DESIGN CHOICE, log 22). It runs
the next of the lists of operations given to the run's handlers (the driver's content of each, log 22).
While it runs, a turn of the CPU leaves SW as it is, in the middle of an operation or not. While it holds because a
status bit is not as it awaits it, SW steps and the handler stays (R275, R318); while it waits for a lock it keeps the
CPU (R367); that a lifted hold gives the CPU back to the handler first is the model's choice (DESIGN CHOICE, log 22).
When its list is done it ends, and SW goes on. -/
def Obligations.HandlerRunsAloneOnTheCpu : Prop :=
  ∀ (s : State) (ts : List Turn), Unmarked s →
    let cpuTurn := fun (turn : Turn) => turn = .cpu ∨ turn = .access ∨ ∃ o, turn = .drop o
    (s.hasEvent = true → s.handlerActive = false →
      step { s with turns := .handler :: ts } =
        .next { s with
          turns := ts
          handlerActive := true
          handlerCode := s.handlerCode.tail
          ih := { s.ih with program := s.handlerCode.headD [], current := none } }) ∧
    (s.hasEvent = false ∨ s.handlerActive = true →
      step { s with turns := .handler :: ts } = .next { s with turns := ts }) ∧
    (s.handlerActive = true → ihAwaits s = false →
      ∀ turn t, cpuTurn turn → step { s with turns := turn :: ts } = .next t → t.sw = s.sw) ∧
    (s.handlerActive = true → ihAwaits s = true →
      ∀ turn t, cpuTurn turn → step { s with turns := turn :: ts } = .next t →
        t.ih = s.ih ∧ t.handlerActive = true ∧ t.cpu = .sw) ∧
    (s.handlerActive = true → s.ih.current = none → s.ih.program = [] →
      step { s with turns := .cpu :: ts } =
        .next { s with turns := ts, handlerActive := false, cpu := .sw })

/-- R40, R89, R300, R306, R313: no step changes the configuration or a Capability register, and no step clears a mark;
once a mark is set the CPU agents have no further step. -/
def Obligations.StepKeepsConstantsAndMarks : Prop :=
  (∀ (s t : State), step s = .next t →
    t.cfg = s.cfg ∧ t.cap = s.cap ∧ (∀ c, s.faulted = some c → t.faulted = some c) ∧
      ∀ r, s.refused = some r → t.refused = some r) ∧
    ∀ (s : State) (ts : List Turn) (turn : Turn), turn = .cpu ∨ turn = .access ∨ (∃ o, turn = .drop o) →
      (∀ c, s.faulted = some c → step { s with turns := turn :: ts } = .fault (.fatal c)) ∧
      ∀ r, s.faulted = none → s.refused = some r → step { s with turns := turn :: ts } = .refused r

/-- R341: at launch, whatever the unspecified values are (`State.reset` is one launch), no ring, buffer or DCBAA exists,
every lock is free, no mark is set, the Capability registers hold the controller's constants. The premise is R90's: the
platform keeps the three register blocks apart and gives the Capability block its registers. The block starts nothing
by itself (R340): in the model a step with no turn to come and no operation given leaves the launch state as it is,
which rests on its choices of log 7 and log 12. The invariant of Safety.lean, the model's own, holds. -/
def Obligations.LaunchHoldsNothing : Prop :=
  ∀ l : Launch, blocksPlaced (State.launch l) = true →
    let s := State.launch l
    s.cmdRing = none ∧ s.transferRings = [] ∧ s.eventRing = none ∧ s.bareRings = [] ∧ s.pinned = [] ∧
      s.dcbaa = none ∧ s.allocs = [] ∧ s.stale = [] ∧ (∀ i, s.lock? (.doorbell i) = some .free) ∧ Unmarked s ∧
      s.cap = l.cap ∧ s.op = l.op ∧ s.hc = l.hc ∧ s.Inv ∧ step s = .next s

/-- The invariant of Safety.lean (R59, R71, R90, R290, R293, R333) is kept by every step, from every state that has it:
memory stays in its canonical form, the register blocks stay where the platform has put them, live allocations stay as the allocator may give them and apart, no Doorbell lock is
recorded twice, and no more than 16 events are posted and not consumed. -/
def Obligations.StepKeepsTheInvariant : Prop :=
  ∀ (s t : State), s.Inv → step s = .next t → t.Inv

/-- R80, R329: taken one access at a time, with no other agent in between, an operation comes to the state it comes to in
one turn. (While a handler holds, two CPU agents take turns: then an access can lift the hold in the middle.) -/
def Obligations.AccessTurnsAmountToTheOperation : Prop :=
  ∀ (i : Instr) (rest : List Instr) (s t : State), Unmarked s → s.turns = [] →
    (s.handlerActive = true → ihAwaits s = false) →
    (dispatch s).ctx.current = none → (dispatch s).ctx.program = i :: rest → step s = .next t →
    ∃ n, core.run n { s with turns := List.replicate n .access } = .next t
end

