-- ==== Sys2Proof/Laws/Memory.lean ====
section
/-! SUPPORT. Laws of the DMA-visible memory: reading after writing, the canonical form, and the little-endian
words of bytes. -/

namespace Sys2Proof.Machine

open Sys2Proof

/-! ### The canonical form -/

theorem Memory.wfFrom_mono {lo lo' : Nat} {m : Memory} (h : Memory.wfFrom lo m = true) (hl : lo' ≤ lo) :
    Memory.wfFrom lo' m = true := by
  cases m with
  | nil => rfl
  | cons c m =>
    obtain ⟨k, b⟩ := c
    simp only [Memory.wfFrom, Bool.and_eq_true, decide_eq_true_eq] at h ⊢
    exact ⟨⟨by omega, h.1.2⟩, h.2⟩

theorem Memory.wfFrom_cons {lo k : Nat} {b : Byte} {m : Memory} :
    Memory.wfFrom lo ((k, b) :: m) = true ↔ lo ≤ k ∧ b ≠ 0 ∧ Memory.wfFrom (k + 1) m = true := by
  simp [Memory.wfFrom, and_assoc]

/-- Below the first listed address every byte reads 0. -/
theorem Memory.read_below {lo : Nat} {m : Memory} (h : Memory.wfFrom lo m = true) {x : Nat} (hx : x < lo) :
    m.read x = 0 := by
  induction m generalizing lo with
  | nil => rfl
  | cons c m ih =>
    obtain ⟨k, b⟩ := c
    obtain ⟨h1, -, h3⟩ := Memory.wfFrom_cons.1 h
    rw [Memory.read, if_neg (by omega)]
    exact ih h3 (by omega)

theorem Memory.write_wfFrom {lo a : Nat} {m : Memory} (h : Memory.wfFrom lo m = true) (ha : lo ≤ a) (b : Byte) :
    Memory.wfFrom lo (m.write a b) = true := by
  induction m generalizing lo with
  | nil =>
    unfold Memory.write
    split_ifs with hb
    · rfl
    · exact Memory.wfFrom_cons.2 ⟨ha, hb, rfl⟩
  | cons c m ih =>
    obtain ⟨k, d⟩ := c
    obtain ⟨h1, h2, h3⟩ := Memory.wfFrom_cons.1 h
    unfold Memory.write
    split_ifs with hak hb hak hb
    · exact h
    · exact Memory.wfFrom_cons.2 ⟨ha, hb, Memory.wfFrom_cons.2 ⟨by omega, h2, h3⟩⟩
    · exact Memory.wfFrom_mono h3 (by omega)
    · subst hak; exact Memory.wfFrom_cons.2 ⟨h1, hb, h3⟩
    · exact Memory.wfFrom_cons.2 ⟨h1, h2, ih h3 (by omega)⟩

/-- Every write of a byte keeps the canonical form. -/
theorem Memory.write_wf {m : Memory} (h : m.wf = true) (a : Nat) (b : Byte) : (m.write a b).wf = true :=
  Memory.write_wfFrom h (Nat.zero_le a) b

theorem Memory.writeBytes_wf {m : Memory} (h : m.wf = true) (a : Nat) (bs : List Byte) :
    (m.writeBytes a bs).wf = true := by
  induction bs generalizing m a with
  | nil => exact h
  | cons b bs ih => exact ih (Memory.write_wf h a b) (a + 1)

theorem Memory.writeWord_wf {m : Memory} (h : m.wf = true) (a : Addr) (n : Nat) (v : Word64) :
    (m.writeWord a n v).wf = true :=
  Memory.writeBytes_wf h _ _

theorem Memory.clear_wfFrom {lo : Nat} {m : Memory} (h : Memory.wfFrom lo m = true) (base n : Nat) :
    Memory.wfFrom lo (m.clear base n) = true := by
  induction m generalizing lo with
  | nil => rfl
  | cons c m ih =>
    obtain ⟨k, b⟩ := c
    obtain ⟨h1, h2, h3⟩ := Memory.wfFrom_cons.1 h
    unfold Memory.clear
    rw [List.filter_cons]
    split
    · exact Memory.wfFrom_cons.2 ⟨h1, h2, ih h3⟩
    · exact Memory.wfFrom_mono (ih h3) (by omega)

/-- Zeroing a block keeps the canonical form. -/
theorem Memory.clear_wf {m : Memory} (h : m.wf = true) (base n : Nat) : (m.clear base n).wf = true :=
  Memory.clear_wfFrom h base n

/-- Nothing is listed at launch. -/
theorem Memory.reset_wf : State.reset.mem.wf = true := rfl

/-! ### Reading after writing -/

theorem Memory.read_cons (k : Nat) (b : Byte) (m : Memory) (x : Nat) :
    Memory.read ((k, b) :: m) x = if k = x then b else Memory.read m x := rfl

theorem Memory.read_write_from {lo a : Nat} {m : Memory} (h : Memory.wfFrom lo m = true) (b : Byte) (x : Nat) :
    (m.write a b).read x = if x = a then b else m.read x := by
  induction m generalizing lo with
  | nil =>
    unfold Memory.write
    split_ifs with hb hx hx
    · exact hb.symm
    · rfl
    · rw [Memory.read_cons, if_pos hx.symm]
    · rw [Memory.read_cons, if_neg (Ne.symm hx)]
  | cons c m ih =>
    obtain ⟨k, d⟩ := c
    obtain ⟨h1, h2, h3⟩ := Memory.wfFrom_cons.1 h
    have below : ∀ y, y ≤ k → Memory.read m y = 0 := fun y hy => Memory.read_below h3 (by omega)
    unfold Memory.write
    by_cases hak : a < k
    · rw [if_pos hak]
      split_ifs with hb hx hx
      · rw [hb, Memory.read_cons, if_neg (by omega), below x (by omega)]
      · rfl
      · rw [Memory.read_cons, if_pos hx.symm]
      · rw [Memory.read_cons, if_neg (Ne.symm hx)]
    · rw [if_neg hak]
      by_cases hk : a = k
      · rw [if_pos hk]
        split_ifs with hb hx hx
        · rw [hb, below x (by omega)]
        · rw [Memory.read_cons, if_neg (by omega)]
        · rw [Memory.read_cons, if_pos hx.symm]
        · rw [Memory.read_cons, if_neg (Ne.symm hx), Memory.read_cons, if_neg (by omega)]
      · rw [if_neg hk, Memory.read_cons, ih h3, Memory.read_cons]
        by_cases hx : x = a
        · rw [if_pos hx, if_neg (by omega)]
          split_ifs
          rfl
        · rw [if_neg hx]
          split_ifs <;> rfl

/-- A byte reads what was written there, and every other byte as before. -/
theorem Memory.read_write {m : Memory} (h : m.wf = true) (a : Nat) (b : Byte) (x : Nat) :
    (m.write a b).read x = if x = a then b else m.read x :=
  Memory.read_write_from h b x

theorem Memory.read_writeBytes {m : Memory} (h : m.wf = true) (a : Nat) (bs : List Byte) (x : Nat) :
    (m.writeBytes a bs).read x = if a ≤ x ∧ x < a + bs.length then bs.getD (x - a) 0 else m.read x := by
  induction bs generalizing m a with
  | nil =>
    rw [Memory.writeBytes, if_neg (by simp only [List.length_nil]; omega)]
  | cons b bs ih =>
    rw [Memory.writeBytes, ih (Memory.write_wf h a b), Memory.read_write h]
    by_cases hx : x = a
    · subst hx
      rw [if_neg (by omega), if_pos rfl, if_pos (by simp)]
      simp
    · by_cases h2 : a + 1 ≤ x ∧ x < a + 1 + bs.length
      · rw [if_pos h2, if_pos (by simp only [List.length_cons]; omega)]
        obtain ⟨d, hd⟩ : ∃ d, x - a = d + 1 := ⟨x - a - 1, by omega⟩
        rw [hd, List.getD_cons_succ]
        congr 1
        omega
      · rw [if_neg h2, if_neg hx, if_neg (by simp only [List.length_cons]; omega)]

@[simp] theorem bytesOf_length (n : Nat) (v : Word64) : (bytesOf n v).length = n := by simp [bytesOf]

theorem bytesOf_getD (n : Nat) (v : Word64) (i : Nat) (h : i < n) :
    (bytesOf n v).getD i 0 = v.extractLsb' (8 * i) 8 := by
  simp [bytesOf, List.getD_eq_getElem?_getD, h]

/-- A word's bytes stand from its address on, least significant first (R11, R74). -/
theorem Memory.read_writeWord {m : Memory} (h : m.wf = true) (a : Addr) (n : Nat) (v : Word64) (x : Nat) :
    (m.writeWord a n v).read x =
      if a.toNat ≤ x ∧ x < a.toNat + n then v.extractLsb' (8 * (x - a.toNat)) 8 else m.read x := by
  rw [Memory.writeWord, Memory.read_writeBytes h, bytesOf_length]
  split
  · rw [bytesOf_getD]; omega
  · rfl

/-- A block that is zeroed reads 0, and every other byte as before (R292). -/
theorem Memory.read_clear_from {lo : Nat} {m : Memory} (h : Memory.wfFrom lo m = true) (base n x : Nat) :
    (m.clear base n).read x = if base ≤ x ∧ x < base + n then 0 else m.read x := by
  induction m generalizing lo with
  | nil => simp [Memory.clear, Memory.read]
  | cons c m ih =>
    obtain ⟨k, b⟩ := c
    obtain ⟨h1, h2, h3⟩ := Memory.wfFrom_cons.1 h
    have ih' := ih h3
    unfold Memory.clear at ih' ⊢
    rw [List.filter_cons]
    by_cases hk : k = x
    · subst hk
      split
      · rename_i hc
        simp only [Bool.or_eq_true, decide_eq_true_eq] at hc
        rw [Memory.read, if_pos rfl, if_neg (by omega), Memory.read, if_pos rfl]
      · rename_i hc
        simp only [Bool.or_eq_true, decide_eq_true_eq, not_or, not_lt, not_le] at hc
        rw [ih', if_pos (by omega), if_pos (by omega)]
    · split
      · rw [Memory.read, if_neg hk, ih', Memory.read, if_neg hk]
      · rw [ih', Memory.read, if_neg hk]

theorem Memory.read_clear {m : Memory} (h : m.wf = true) (base n x : Nat) :
    (m.clear base n).read x = if base ≤ x ∧ x < base + n then 0 else m.read x :=
  Memory.read_clear_from h base n x

/-! ### Words -/

theorem Memory.readWord_congr {m m' : Memory} {a : Addr} {n : Nat}
    (h : ∀ i, i < n → m'.read (a.toNat + i) = m.read (a.toNat + i)) : m'.readWord a n = m.readWord a n := by
  unfold Memory.readWord
  congr 1
  apply List.map_congr_left
  intro i hi
  exact h i (List.mem_range.1 hi)

/-- A word away from the bytes written reads as before. -/
theorem Memory.readWord_writeWord_apart {m : Memory} (h : m.wf = true) (a b : Addr) (n k : Nat) (v : Word64)
    (hd : a.toNat + n ≤ b.toNat ∨ b.toNat + k ≤ a.toNat) : (m.writeWord b k v).readWord a n = m.readWord a n := by
  apply Memory.readWord_congr
  intro i hi
  rw [Memory.read_writeWord h, if_neg (by omega)]

theorem Memory.readWord_writeWord_same {m : Memory} (h : m.wf = true) (a : Addr) (n : Nat) (v : Word64) :
    (m.writeWord a n v).readWord a n = wordOf (bytesOf n v) := by
  unfold Memory.readWord bytesOf
  congr 1
  apply List.map_congr_left
  intro i hi
  have := List.mem_range.1 hi
  rw [Memory.read_writeWord h, if_pos (by omega)]
  congr 2
  omega

/-- The bytes of a word give the word back, cut to their width (R74). -/
theorem wordOf_bytesOf_one (v : Word64) : wordOf (bytesOf 1 v) = v &&& 0xFF#64 := by
  have hl : bytesOf 1 v = [v.extractLsb' 0 8] := rfl
  rw [hl]
  apply BitVec.eq_of_getLsbD_eq
  intro i hi
  simp only [wordOf, BitVec.getLsbD_or, BitVec.getLsbD_shiftLeft, BitVec.getLsbD_setWidth,
    BitVec.getLsbD_extractLsb', BitVec.getLsbD_and]
  interval_cases i <;> simp

theorem wordOf_bytesOf_two (v : Word64) : wordOf (bytesOf 2 v) = v &&& 0xFFFF#64 := by
  have hl : bytesOf 2 v = [v.extractLsb' 0 8, v.extractLsb' 8 8] := rfl
  rw [hl]
  apply BitVec.eq_of_getLsbD_eq
  intro i hi
  simp only [wordOf, BitVec.getLsbD_or, BitVec.getLsbD_shiftLeft, BitVec.getLsbD_setWidth,
    BitVec.getLsbD_extractLsb', BitVec.getLsbD_and]
  interval_cases i <;> simp

theorem wordOf_bytesOf_four (v : Word64) : wordOf (bytesOf 4 v) = v &&& 0xFFFFFFFF#64 := by
  have hl : bytesOf 4 v = [v.extractLsb' 0 8, v.extractLsb' 8 8, v.extractLsb' 16 8, v.extractLsb' 24 8] := rfl
  rw [hl]
  apply BitVec.eq_of_getLsbD_eq
  intro i hi
  simp only [wordOf, BitVec.getLsbD_or, BitVec.getLsbD_shiftLeft, BitVec.getLsbD_setWidth,
    BitVec.getLsbD_extractLsb', BitVec.getLsbD_and]
  interval_cases i <;> simp

theorem wordOf_bytesOf_eight (v : Word64) : wordOf (bytesOf 8 v) = v := by
  have hl : bytesOf 8 v = [v.extractLsb' 0 8, v.extractLsb' 8 8, v.extractLsb' 16 8, v.extractLsb' 24 8, v.extractLsb' 32 8, v.extractLsb' 40 8, v.extractLsb' 48 8, v.extractLsb' 56 8] := rfl
  rw [hl]
  apply BitVec.eq_of_getLsbD_eq
  intro i hi
  simp only [wordOf, BitVec.getLsbD_or, BitVec.getLsbD_shiftLeft, BitVec.getLsbD_setWidth,
    BitVec.getLsbD_extractLsb']
  interval_cases i <;> simp

end Sys2Proof.Machine
end

