-- ==== Sys2Proof/Laws/State.lean ====
section
/-! SUPPORT. One lemma per field per named update of the state, true by unfolding the update once. -/

namespace Sys2Proof.Machine

open Sys2Proof

section

variable (s : State) (c : Ctx)

@[simp] theorem State.setCtx_cfg : (s.setCtx c).cfg = s.cfg := rfl
@[simp] theorem State.setCtx_mem : (s.setCtx c).mem = s.mem := rfl
@[simp] theorem State.setCtx_allocs : (s.setCtx c).allocs = s.allocs := rfl
@[simp] theorem State.setCtx_stale : (s.setCtx c).stale = s.stale := rfl
@[simp] theorem State.setCtx_cmdRing : (s.setCtx c).cmdRing = s.cmdRing := rfl
@[simp] theorem State.setCtx_transferRings : (s.setCtx c).transferRings = s.transferRings := rfl
@[simp] theorem State.setCtx_eventRing : (s.setCtx c).eventRing = s.eventRing := rfl
@[simp] theorem State.setCtx_bareRings : (s.setCtx c).bareRings = s.bareRings := rfl
@[simp] theorem State.setCtx_pinned : (s.setCtx c).pinned = s.pinned := rfl
@[simp] theorem State.setCtx_dcbaa : (s.setCtx c).dcbaa = s.dcbaa := rfl
@[simp] theorem State.setCtx_cap : (s.setCtx c).cap = s.cap := rfl
@[simp] theorem State.setCtx_op : (s.setCtx c).op = s.op := rfl
@[simp] theorem State.setCtx_dbLocks : (s.setCtx c).dbLocks = s.dbLocks := rfl
@[simp] theorem State.setCtx_hc : (s.setCtx c).hc = s.hc := rfl
@[simp] theorem State.setCtx_handlerActive : (s.setCtx c).handlerActive = s.handlerActive := rfl
@[simp] theorem State.setCtx_cpu : (s.setCtx c).cpu = s.cpu := rfl
@[simp] theorem State.setCtx_handlerCode : (s.setCtx c).handlerCode = s.handlerCode := rfl
@[simp] theorem State.setCtx_faulted : (s.setCtx c).faulted = s.faulted := rfl
@[simp] theorem State.setCtx_refused : (s.setCtx c).refused = s.refused := rfl
@[simp] theorem State.setCtx_turns : (s.setCtx c).turns = s.turns := rfl
@[simp] theorem State.setCtx_serving : (s.setCtx c).serving = s.serving := rfl
@[simp] theorem State.setCtx_supply : (s.setCtx c).supply = s.supply := rfl
@[simp] theorem State.setCtx_hcSupply : (s.setCtx c).hcSupply = s.hcSupply := rfl
@[simp] theorem State.setCtx_drawn : (s.setCtx c).drawn = s.drawn := rfl
@[simp] theorem State.setCtx_trace : (s.setCtx c).trace = s.trace := rfl

end

section

variable (s : State) (r : Result)

@[simp] theorem State.finish_cfg : (s.finish r).cfg = s.cfg := rfl
@[simp] theorem State.finish_mem : (s.finish r).mem = s.mem := rfl
@[simp] theorem State.finish_allocs : (s.finish r).allocs = s.allocs := rfl
@[simp] theorem State.finish_stale : (s.finish r).stale = s.stale := rfl
@[simp] theorem State.finish_cmdRing : (s.finish r).cmdRing = s.cmdRing := rfl
@[simp] theorem State.finish_transferRings : (s.finish r).transferRings = s.transferRings := rfl
@[simp] theorem State.finish_eventRing : (s.finish r).eventRing = s.eventRing := rfl
@[simp] theorem State.finish_bareRings : (s.finish r).bareRings = s.bareRings := rfl
@[simp] theorem State.finish_pinned : (s.finish r).pinned = s.pinned := rfl
@[simp] theorem State.finish_dcbaa : (s.finish r).dcbaa = s.dcbaa := rfl
@[simp] theorem State.finish_cap : (s.finish r).cap = s.cap := rfl
@[simp] theorem State.finish_op : (s.finish r).op = s.op := rfl
@[simp] theorem State.finish_dbLocks : (s.finish r).dbLocks = s.dbLocks := rfl
@[simp] theorem State.finish_hc : (s.finish r).hc = s.hc := rfl
@[simp] theorem State.finish_handlerActive : (s.finish r).handlerActive = s.handlerActive := rfl
@[simp] theorem State.finish_cpu : (s.finish r).cpu = s.cpu := rfl
@[simp] theorem State.finish_handlerCode : (s.finish r).handlerCode = s.handlerCode := rfl
@[simp] theorem State.finish_faulted : (s.finish r).faulted = s.faulted := rfl
@[simp] theorem State.finish_refused : (s.finish r).refused = s.refused := rfl
@[simp] theorem State.finish_turns : (s.finish r).turns = s.turns := rfl
@[simp] theorem State.finish_serving : (s.finish r).serving = s.serving := rfl
@[simp] theorem State.finish_supply : (s.finish r).supply = s.supply := rfl
@[simp] theorem State.finish_hcSupply : (s.finish r).hcSupply = s.hcSupply := rfl
@[simp] theorem State.finish_drawn : (s.finish r).drawn = s.drawn := rfl
@[simp] theorem State.finish_trace : (s.finish r).trace = s.trace := rfl

end

section

variable (s : State) (i : Instr) (vs : List Val) (on : Option Awaited)

@[simp] theorem State.suspend_cfg : (s.suspend i vs on).cfg = s.cfg := rfl
@[simp] theorem State.suspend_mem : (s.suspend i vs on).mem = s.mem := rfl
@[simp] theorem State.suspend_allocs : (s.suspend i vs on).allocs = s.allocs := rfl
@[simp] theorem State.suspend_stale : (s.suspend i vs on).stale = s.stale := rfl
@[simp] theorem State.suspend_cmdRing : (s.suspend i vs on).cmdRing = s.cmdRing := rfl
@[simp] theorem State.suspend_transferRings :
    (s.suspend i vs on).transferRings = s.transferRings := rfl
@[simp] theorem State.suspend_eventRing : (s.suspend i vs on).eventRing = s.eventRing := rfl
@[simp] theorem State.suspend_bareRings : (s.suspend i vs on).bareRings = s.bareRings := rfl
@[simp] theorem State.suspend_pinned : (s.suspend i vs on).pinned = s.pinned := rfl
@[simp] theorem State.suspend_dcbaa : (s.suspend i vs on).dcbaa = s.dcbaa := rfl
@[simp] theorem State.suspend_cap : (s.suspend i vs on).cap = s.cap := rfl
@[simp] theorem State.suspend_op : (s.suspend i vs on).op = s.op := rfl
@[simp] theorem State.suspend_dbLocks : (s.suspend i vs on).dbLocks = s.dbLocks := rfl
@[simp] theorem State.suspend_hc : (s.suspend i vs on).hc = s.hc := rfl
@[simp] theorem State.suspend_handlerActive :
    (s.suspend i vs on).handlerActive = s.handlerActive := rfl
@[simp] theorem State.suspend_cpu : (s.suspend i vs on).cpu = s.cpu := rfl
@[simp] theorem State.suspend_handlerCode : (s.suspend i vs on).handlerCode = s.handlerCode := rfl
@[simp] theorem State.suspend_faulted : (s.suspend i vs on).faulted = s.faulted := rfl
@[simp] theorem State.suspend_refused : (s.suspend i vs on).refused = s.refused := rfl
@[simp] theorem State.suspend_turns : (s.suspend i vs on).turns = s.turns := rfl
@[simp] theorem State.suspend_serving : (s.suspend i vs on).serving = s.serving := rfl
@[simp] theorem State.suspend_supply : (s.suspend i vs on).supply = s.supply := rfl
@[simp] theorem State.suspend_hcSupply : (s.suspend i vs on).hcSupply = s.hcSupply := rfl
@[simp] theorem State.suspend_drawn : (s.suspend i vs on).drawn = s.drawn := rfl
@[simp] theorem State.suspend_trace : (s.suspend i vs on).trace = s.trace := rfl

end

section

variable (s : State) (c : FatalCode)

@[simp] theorem raiseFatal_cfg : (raiseFatal c s).cfg = s.cfg := rfl
@[simp] theorem raiseFatal_mem : (raiseFatal c s).mem = s.mem := rfl
@[simp] theorem raiseFatal_allocs : (raiseFatal c s).allocs = s.allocs := rfl
@[simp] theorem raiseFatal_stale : (raiseFatal c s).stale = s.stale := rfl
@[simp] theorem raiseFatal_cmdRing : (raiseFatal c s).cmdRing = s.cmdRing := rfl
@[simp] theorem raiseFatal_transferRings : (raiseFatal c s).transferRings = s.transferRings := rfl
@[simp] theorem raiseFatal_eventRing : (raiseFatal c s).eventRing = s.eventRing := rfl
@[simp] theorem raiseFatal_bareRings : (raiseFatal c s).bareRings = s.bareRings := rfl
@[simp] theorem raiseFatal_pinned : (raiseFatal c s).pinned = s.pinned := rfl
@[simp] theorem raiseFatal_dcbaa : (raiseFatal c s).dcbaa = s.dcbaa := rfl
@[simp] theorem raiseFatal_cap : (raiseFatal c s).cap = s.cap := rfl
@[simp] theorem raiseFatal_op : (raiseFatal c s).op = s.op := rfl
@[simp] theorem raiseFatal_dbLocks : (raiseFatal c s).dbLocks = s.dbLocks := rfl
@[simp] theorem raiseFatal_hc : (raiseFatal c s).hc = s.hc := rfl
@[simp] theorem raiseFatal_handlerActive : (raiseFatal c s).handlerActive = s.handlerActive := rfl
@[simp] theorem raiseFatal_cpu : (raiseFatal c s).cpu = s.cpu := rfl
@[simp] theorem raiseFatal_handlerCode : (raiseFatal c s).handlerCode = s.handlerCode := rfl
@[simp] theorem raiseFatal_faulted : (raiseFatal c s).faulted = some c := rfl
@[simp] theorem raiseFatal_refused : (raiseFatal c s).refused = s.refused := rfl
@[simp] theorem raiseFatal_turns : (raiseFatal c s).turns = s.turns := rfl
@[simp] theorem raiseFatal_serving : (raiseFatal c s).serving = s.serving := rfl
@[simp] theorem raiseFatal_supply : (raiseFatal c s).supply = s.supply := rfl
@[simp] theorem raiseFatal_hcSupply : (raiseFatal c s).hcSupply = s.hcSupply := rfl
@[simp] theorem raiseFatal_drawn : (raiseFatal c s).drawn = s.drawn := rfl
@[simp] theorem raiseFatal_trace : (raiseFatal c s).trace = s.trace := rfl

end

section

variable (s : State) (r : Refusal)

@[simp] theorem raiseRefusal_cfg : (raiseRefusal r s).cfg = s.cfg := rfl
@[simp] theorem raiseRefusal_mem : (raiseRefusal r s).mem = s.mem := rfl
@[simp] theorem raiseRefusal_allocs : (raiseRefusal r s).allocs = s.allocs := rfl
@[simp] theorem raiseRefusal_stale : (raiseRefusal r s).stale = s.stale := rfl
@[simp] theorem raiseRefusal_cmdRing : (raiseRefusal r s).cmdRing = s.cmdRing := rfl
@[simp] theorem raiseRefusal_transferRings :
    (raiseRefusal r s).transferRings = s.transferRings := rfl
@[simp] theorem raiseRefusal_eventRing : (raiseRefusal r s).eventRing = s.eventRing := rfl
@[simp] theorem raiseRefusal_bareRings : (raiseRefusal r s).bareRings = s.bareRings := rfl
@[simp] theorem raiseRefusal_pinned : (raiseRefusal r s).pinned = s.pinned := rfl
@[simp] theorem raiseRefusal_dcbaa : (raiseRefusal r s).dcbaa = s.dcbaa := rfl
@[simp] theorem raiseRefusal_cap : (raiseRefusal r s).cap = s.cap := rfl
@[simp] theorem raiseRefusal_op : (raiseRefusal r s).op = s.op := rfl
@[simp] theorem raiseRefusal_dbLocks : (raiseRefusal r s).dbLocks = s.dbLocks := rfl
@[simp] theorem raiseRefusal_hc : (raiseRefusal r s).hc = s.hc := rfl
@[simp] theorem raiseRefusal_handlerActive :
    (raiseRefusal r s).handlerActive = s.handlerActive := rfl
@[simp] theorem raiseRefusal_cpu : (raiseRefusal r s).cpu = s.cpu := rfl
@[simp] theorem raiseRefusal_handlerCode : (raiseRefusal r s).handlerCode = s.handlerCode := rfl
@[simp] theorem raiseRefusal_faulted : (raiseRefusal r s).faulted = s.faulted := rfl
@[simp] theorem raiseRefusal_refused : (raiseRefusal r s).refused = some r := rfl
@[simp] theorem raiseRefusal_turns : (raiseRefusal r s).turns = s.turns := rfl
@[simp] theorem raiseRefusal_serving : (raiseRefusal r s).serving = s.serving := rfl
@[simp] theorem raiseRefusal_supply : (raiseRefusal r s).supply = s.supply := rfl
@[simp] theorem raiseRefusal_hcSupply : (raiseRefusal r s).hcSupply = s.hcSupply := rfl
@[simp] theorem raiseRefusal_drawn : (raiseRefusal r s).drawn = s.drawn := rfl
@[simp] theorem raiseRefusal_trace : (raiseRefusal r s).trace = s.trace := rfl

end

section

variable (s : State) (k : AccessKind) (l : Loc) (n : Nat) (v : Word64)

@[simp] theorem State.log_cfg : (s.log k l n v).cfg = s.cfg := rfl
@[simp] theorem State.log_mem : (s.log k l n v).mem = s.mem := rfl
@[simp] theorem State.log_allocs : (s.log k l n v).allocs = s.allocs := rfl
@[simp] theorem State.log_stale : (s.log k l n v).stale = s.stale := rfl
@[simp] theorem State.log_cmdRing : (s.log k l n v).cmdRing = s.cmdRing := rfl
@[simp] theorem State.log_transferRings : (s.log k l n v).transferRings = s.transferRings := rfl
@[simp] theorem State.log_eventRing : (s.log k l n v).eventRing = s.eventRing := rfl
@[simp] theorem State.log_bareRings : (s.log k l n v).bareRings = s.bareRings := rfl
@[simp] theorem State.log_pinned : (s.log k l n v).pinned = s.pinned := rfl
@[simp] theorem State.log_dcbaa : (s.log k l n v).dcbaa = s.dcbaa := rfl
@[simp] theorem State.log_cap : (s.log k l n v).cap = s.cap := rfl
@[simp] theorem State.log_op : (s.log k l n v).op = s.op := rfl
@[simp] theorem State.log_dbLocks : (s.log k l n v).dbLocks = s.dbLocks := rfl
@[simp] theorem State.log_hc : (s.log k l n v).hc = s.hc := rfl
@[simp] theorem State.log_sw : (s.log k l n v).sw = s.sw := rfl
@[simp] theorem State.log_ih : (s.log k l n v).ih = s.ih := rfl
@[simp] theorem State.log_handlerActive : (s.log k l n v).handlerActive = s.handlerActive := rfl
@[simp] theorem State.log_cpu : (s.log k l n v).cpu = s.cpu := rfl
@[simp] theorem State.log_handlerCode : (s.log k l n v).handlerCode = s.handlerCode := rfl
@[simp] theorem State.log_faulted : (s.log k l n v).faulted = s.faulted := rfl
@[simp] theorem State.log_refused : (s.log k l n v).refused = s.refused := rfl
@[simp] theorem State.log_turns : (s.log k l n v).turns = s.turns := rfl
@[simp] theorem State.log_serving : (s.log k l n v).serving = s.serving := rfl
@[simp] theorem State.log_supply : (s.log k l n v).supply = s.supply := rfl
@[simp] theorem State.log_hcSupply : (s.log k l n v).hcSupply = s.hcSupply := rfl
@[simp] theorem State.log_drawn : (s.log k l n v).drawn = s.drawn := rfl
@[simp] theorem State.log_trace :
    (s.log k l n v).trace = { agent := s.agent, kind := k, loc := l, bytes := n, value := v } :: s.trace := rfl

end

section

variable (s : State)

@[simp] theorem State.draw_cfg : s.draw.2.cfg = s.cfg := rfl
@[simp] theorem State.draw_mem : s.draw.2.mem = s.mem := rfl
@[simp] theorem State.draw_allocs : s.draw.2.allocs = s.allocs := rfl
@[simp] theorem State.draw_stale : s.draw.2.stale = s.stale := rfl
@[simp] theorem State.draw_cmdRing : s.draw.2.cmdRing = s.cmdRing := rfl
@[simp] theorem State.draw_transferRings : s.draw.2.transferRings = s.transferRings := rfl
@[simp] theorem State.draw_eventRing : s.draw.2.eventRing = s.eventRing := rfl
@[simp] theorem State.draw_bareRings : s.draw.2.bareRings = s.bareRings := rfl
@[simp] theorem State.draw_pinned : s.draw.2.pinned = s.pinned := rfl
@[simp] theorem State.draw_dcbaa : s.draw.2.dcbaa = s.dcbaa := rfl
@[simp] theorem State.draw_cap : s.draw.2.cap = s.cap := rfl
@[simp] theorem State.draw_op : s.draw.2.op = s.op := rfl
@[simp] theorem State.draw_dbLocks : s.draw.2.dbLocks = s.dbLocks := rfl
@[simp] theorem State.draw_hc : s.draw.2.hc = s.hc := rfl
@[simp] theorem State.draw_sw : s.draw.2.sw = s.sw := rfl
@[simp] theorem State.draw_ih : s.draw.2.ih = s.ih := rfl
@[simp] theorem State.draw_handlerActive : s.draw.2.handlerActive = s.handlerActive := rfl
@[simp] theorem State.draw_cpu : s.draw.2.cpu = s.cpu := rfl
@[simp] theorem State.draw_handlerCode : s.draw.2.handlerCode = s.handlerCode := rfl
@[simp] theorem State.draw_faulted : s.draw.2.faulted = s.faulted := rfl
@[simp] theorem State.draw_refused : s.draw.2.refused = s.refused := rfl
@[simp] theorem State.draw_turns : s.draw.2.turns = s.turns := rfl
@[simp] theorem State.draw_serving : s.draw.2.serving = s.serving := rfl
@[simp] theorem State.draw_supply : s.draw.2.supply = s.supply.tail := rfl
@[simp] theorem State.draw_hcSupply : s.draw.2.hcSupply = s.hcSupply := rfl
@[simp] theorem State.draw_trace : s.draw.2.trace = s.trace := rfl

end

section

variable (s : State)

@[simp] theorem State.drawHidden_cfg : s.drawHidden.2.cfg = s.cfg := rfl
@[simp] theorem State.drawHidden_mem : s.drawHidden.2.mem = s.mem := rfl
@[simp] theorem State.drawHidden_allocs : s.drawHidden.2.allocs = s.allocs := rfl
@[simp] theorem State.drawHidden_stale : s.drawHidden.2.stale = s.stale := rfl
@[simp] theorem State.drawHidden_cmdRing : s.drawHidden.2.cmdRing = s.cmdRing := rfl
@[simp] theorem State.drawHidden_transferRings :
    s.drawHidden.2.transferRings = s.transferRings := rfl
@[simp] theorem State.drawHidden_eventRing : s.drawHidden.2.eventRing = s.eventRing := rfl
@[simp] theorem State.drawHidden_bareRings : s.drawHidden.2.bareRings = s.bareRings := rfl
@[simp] theorem State.drawHidden_pinned : s.drawHidden.2.pinned = s.pinned := rfl
@[simp] theorem State.drawHidden_dcbaa : s.drawHidden.2.dcbaa = s.dcbaa := rfl
@[simp] theorem State.drawHidden_cap : s.drawHidden.2.cap = s.cap := rfl
@[simp] theorem State.drawHidden_op : s.drawHidden.2.op = s.op := rfl
@[simp] theorem State.drawHidden_dbLocks : s.drawHidden.2.dbLocks = s.dbLocks := rfl
@[simp] theorem State.drawHidden_hc : s.drawHidden.2.hc = s.hc := rfl
@[simp] theorem State.drawHidden_sw : s.drawHidden.2.sw = s.sw := rfl
@[simp] theorem State.drawHidden_ih : s.drawHidden.2.ih = s.ih := rfl
@[simp] theorem State.drawHidden_handlerActive :
    s.drawHidden.2.handlerActive = s.handlerActive := rfl
@[simp] theorem State.drawHidden_cpu : s.drawHidden.2.cpu = s.cpu := rfl
@[simp] theorem State.drawHidden_handlerCode : s.drawHidden.2.handlerCode = s.handlerCode := rfl
@[simp] theorem State.drawHidden_faulted : s.drawHidden.2.faulted = s.faulted := rfl
@[simp] theorem State.drawHidden_refused : s.drawHidden.2.refused = s.refused := rfl
@[simp] theorem State.drawHidden_turns : s.drawHidden.2.turns = s.turns := rfl
@[simp] theorem State.drawHidden_serving : s.drawHidden.2.serving = s.serving := rfl
@[simp] theorem State.drawHidden_supply : s.drawHidden.2.supply = s.supply := rfl
@[simp] theorem State.drawHidden_hcSupply : s.drawHidden.2.hcSupply = s.hcSupply.tail := rfl
@[simp] theorem State.drawHidden_trace : s.drawHidden.2.trace = s.trace := rfl

end

section

variable (s : State) (r : RingId) (i : Fin 16)

@[simp] theorem State.setIndex_cfg : (s.setIndex r i).cfg = s.cfg := rfl
@[simp] theorem State.setIndex_mem : (s.setIndex r i).mem = s.mem := rfl
@[simp] theorem State.setIndex_allocs : (s.setIndex r i).allocs = s.allocs := rfl
@[simp] theorem State.setIndex_stale : (s.setIndex r i).stale = s.stale := rfl
@[simp] theorem State.setIndex_pinned : (s.setIndex r i).pinned = s.pinned := rfl
@[simp] theorem State.setIndex_dcbaa : (s.setIndex r i).dcbaa = s.dcbaa := rfl
@[simp] theorem State.setIndex_cap : (s.setIndex r i).cap = s.cap := rfl
@[simp] theorem State.setIndex_op : (s.setIndex r i).op = s.op := rfl
@[simp] theorem State.setIndex_dbLocks : (s.setIndex r i).dbLocks = s.dbLocks := rfl
@[simp] theorem State.setIndex_hc : (s.setIndex r i).hc = s.hc := rfl
@[simp] theorem State.setIndex_sw : (s.setIndex r i).sw = s.sw := rfl
@[simp] theorem State.setIndex_ih : (s.setIndex r i).ih = s.ih := rfl
@[simp] theorem State.setIndex_handlerActive :
    (s.setIndex r i).handlerActive = s.handlerActive := rfl
@[simp] theorem State.setIndex_cpu : (s.setIndex r i).cpu = s.cpu := rfl
@[simp] theorem State.setIndex_handlerCode : (s.setIndex r i).handlerCode = s.handlerCode := rfl
@[simp] theorem State.setIndex_faulted : (s.setIndex r i).faulted = s.faulted := rfl
@[simp] theorem State.setIndex_refused : (s.setIndex r i).refused = s.refused := rfl
@[simp] theorem State.setIndex_turns : (s.setIndex r i).turns = s.turns := rfl
@[simp] theorem State.setIndex_serving : (s.setIndex r i).serving = s.serving := rfl
@[simp] theorem State.setIndex_supply : (s.setIndex r i).supply = s.supply := rfl
@[simp] theorem State.setIndex_hcSupply : (s.setIndex r i).hcSupply = s.hcSupply := rfl
@[simp] theorem State.setIndex_drawn : (s.setIndex r i).drawn = s.drawn := rfl
@[simp] theorem State.setIndex_trace : (s.setIndex r i).trace = s.trace := rfl

end

section

variable (s : State) (r : RingId) (i : Fin 16)

@[simp] theorem State.moveIndex_cfg : (s.moveIndex r i).cfg = s.cfg := rfl
@[simp] theorem State.moveIndex_mem : (s.moveIndex r i).mem = s.mem := rfl
@[simp] theorem State.moveIndex_allocs : (s.moveIndex r i).allocs = s.allocs := rfl
@[simp] theorem State.moveIndex_stale : (s.moveIndex r i).stale = s.stale := rfl
@[simp] theorem State.moveIndex_cmdRing :
    (s.moveIndex r i).cmdRing = (s.setIndex r i).cmdRing := rfl
@[simp] theorem State.moveIndex_transferRings :
    (s.moveIndex r i).transferRings = (s.setIndex r i).transferRings := rfl
@[simp] theorem State.moveIndex_bareRings :
    (s.moveIndex r i).bareRings = (s.setIndex r i).bareRings := rfl
@[simp] theorem State.moveIndex_pinned : (s.moveIndex r i).pinned = s.pinned := rfl
@[simp] theorem State.moveIndex_dcbaa : (s.moveIndex r i).dcbaa = s.dcbaa := rfl
@[simp] theorem State.moveIndex_cap : (s.moveIndex r i).cap = s.cap := rfl
@[simp] theorem State.moveIndex_op : (s.moveIndex r i).op = s.op := rfl
@[simp] theorem State.moveIndex_dbLocks : (s.moveIndex r i).dbLocks = s.dbLocks := rfl
@[simp] theorem State.moveIndex_hc : (s.moveIndex r i).hc = s.hc := rfl
@[simp] theorem State.moveIndex_sw : (s.moveIndex r i).sw = s.sw := rfl
@[simp] theorem State.moveIndex_ih : (s.moveIndex r i).ih = s.ih := rfl
@[simp] theorem State.moveIndex_handlerActive :
    (s.moveIndex r i).handlerActive = s.handlerActive := rfl
@[simp] theorem State.moveIndex_cpu : (s.moveIndex r i).cpu = s.cpu := rfl
@[simp] theorem State.moveIndex_handlerCode : (s.moveIndex r i).handlerCode = s.handlerCode := rfl
@[simp] theorem State.moveIndex_faulted : (s.moveIndex r i).faulted = s.faulted := rfl
@[simp] theorem State.moveIndex_refused : (s.moveIndex r i).refused = s.refused := rfl
@[simp] theorem State.moveIndex_turns : (s.moveIndex r i).turns = s.turns := rfl
@[simp] theorem State.moveIndex_serving : (s.moveIndex r i).serving = s.serving := rfl
@[simp] theorem State.moveIndex_supply : (s.moveIndex r i).supply = s.supply := rfl
@[simp] theorem State.moveIndex_hcSupply : (s.moveIndex r i).hcSupply = s.hcSupply := rfl
@[simp] theorem State.moveIndex_drawn : (s.moveIndex r i).drawn = s.drawn := rfl
@[simp] theorem State.moveIndex_trace : (s.moveIndex r i).trace = s.trace := rfl

end

section

variable (s : State) (o : RingOwner) (b : Bool)

@[simp] theorem State.setCso_cfg : (s.setCso o b).cfg = s.cfg := rfl
@[simp] theorem State.setCso_mem : (s.setCso o b).mem = s.mem := rfl
@[simp] theorem State.setCso_allocs : (s.setCso o b).allocs = s.allocs := rfl
@[simp] theorem State.setCso_stale : (s.setCso o b).stale = s.stale := rfl
@[simp] theorem State.setCso_eventRing : (s.setCso o b).eventRing = s.eventRing := rfl
@[simp] theorem State.setCso_bareRings : (s.setCso o b).bareRings = s.bareRings := rfl
@[simp] theorem State.setCso_pinned : (s.setCso o b).pinned = s.pinned := rfl
@[simp] theorem State.setCso_dcbaa : (s.setCso o b).dcbaa = s.dcbaa := rfl
@[simp] theorem State.setCso_cap : (s.setCso o b).cap = s.cap := rfl
@[simp] theorem State.setCso_op : (s.setCso o b).op = s.op := rfl
@[simp] theorem State.setCso_dbLocks : (s.setCso o b).dbLocks = s.dbLocks := rfl
@[simp] theorem State.setCso_hc : (s.setCso o b).hc = s.hc := rfl
@[simp] theorem State.setCso_sw : (s.setCso o b).sw = s.sw := rfl
@[simp] theorem State.setCso_ih : (s.setCso o b).ih = s.ih := rfl
@[simp] theorem State.setCso_handlerActive : (s.setCso o b).handlerActive = s.handlerActive := rfl
@[simp] theorem State.setCso_cpu : (s.setCso o b).cpu = s.cpu := rfl
@[simp] theorem State.setCso_handlerCode : (s.setCso o b).handlerCode = s.handlerCode := rfl
@[simp] theorem State.setCso_faulted : (s.setCso o b).faulted = s.faulted := rfl
@[simp] theorem State.setCso_refused : (s.setCso o b).refused = s.refused := rfl
@[simp] theorem State.setCso_turns : (s.setCso o b).turns = s.turns := rfl
@[simp] theorem State.setCso_serving : (s.setCso o b).serving = s.serving := rfl
@[simp] theorem State.setCso_supply : (s.setCso o b).supply = s.supply := rfl
@[simp] theorem State.setCso_hcSupply : (s.setCso o b).hcSupply = s.hcSupply := rfl
@[simp] theorem State.setCso_drawn : (s.setCso o b).drawn = s.drawn := rfl
@[simp] theorem State.setCso_trace : (s.setCso o b).trace = s.trace := rfl

end

section

variable (s : State) (k : Nat) (d : Fin 15)

@[simp] theorem State.setDeq_cfg : (s.setDeq k d).cfg = s.cfg := rfl
@[simp] theorem State.setDeq_mem : (s.setDeq k d).mem = s.mem := rfl
@[simp] theorem State.setDeq_allocs : (s.setDeq k d).allocs = s.allocs := rfl
@[simp] theorem State.setDeq_stale : (s.setDeq k d).stale = s.stale := rfl
@[simp] theorem State.setDeq_cmdRing : (s.setDeq k d).cmdRing = s.cmdRing := rfl
@[simp] theorem State.setDeq_transferRings :
    (s.setDeq k d).transferRings = s.modifyTransfer k fun t => { t with deq := d } := rfl
@[simp] theorem State.setDeq_eventRing : (s.setDeq k d).eventRing = s.eventRing := rfl
@[simp] theorem State.setDeq_bareRings : (s.setDeq k d).bareRings = s.bareRings := rfl
@[simp] theorem State.setDeq_pinned : (s.setDeq k d).pinned = s.pinned := rfl
@[simp] theorem State.setDeq_dcbaa : (s.setDeq k d).dcbaa = s.dcbaa := rfl
@[simp] theorem State.setDeq_cap : (s.setDeq k d).cap = s.cap := rfl
@[simp] theorem State.setDeq_op : (s.setDeq k d).op = s.op := rfl
@[simp] theorem State.setDeq_dbLocks : (s.setDeq k d).dbLocks = s.dbLocks := rfl
@[simp] theorem State.setDeq_hc : (s.setDeq k d).hc = s.hc := rfl
@[simp] theorem State.setDeq_sw : (s.setDeq k d).sw = s.sw := rfl
@[simp] theorem State.setDeq_ih : (s.setDeq k d).ih = s.ih := rfl
@[simp] theorem State.setDeq_handlerActive : (s.setDeq k d).handlerActive = s.handlerActive := rfl
@[simp] theorem State.setDeq_cpu : (s.setDeq k d).cpu = s.cpu := rfl
@[simp] theorem State.setDeq_handlerCode : (s.setDeq k d).handlerCode = s.handlerCode := rfl
@[simp] theorem State.setDeq_faulted : (s.setDeq k d).faulted = s.faulted := rfl
@[simp] theorem State.setDeq_refused : (s.setDeq k d).refused = s.refused := rfl
@[simp] theorem State.setDeq_turns : (s.setDeq k d).turns = s.turns := rfl
@[simp] theorem State.setDeq_serving : (s.setDeq k d).serving = s.serving := rfl
@[simp] theorem State.setDeq_supply : (s.setDeq k d).supply = s.supply := rfl
@[simp] theorem State.setDeq_hcSupply : (s.setDeq k d).hcSupply = s.hcSupply := rfl
@[simp] theorem State.setDeq_drawn : (s.setDeq k d).drawn = s.drawn := rfl
@[simp] theorem State.setDeq_trace : (s.setDeq k d).trace = s.trace := rfl

end

section

variable (s : State) (b : Bool)

@[simp] theorem State.setEventCso_cfg : (s.setEventCso b).cfg = s.cfg := rfl
@[simp] theorem State.setEventCso_mem : (s.setEventCso b).mem = s.mem := rfl
@[simp] theorem State.setEventCso_allocs : (s.setEventCso b).allocs = s.allocs := rfl
@[simp] theorem State.setEventCso_stale : (s.setEventCso b).stale = s.stale := rfl
@[simp] theorem State.setEventCso_cmdRing : (s.setEventCso b).cmdRing = s.cmdRing := rfl
@[simp] theorem State.setEventCso_transferRings :
    (s.setEventCso b).transferRings = s.transferRings := rfl
@[simp] theorem State.setEventCso_eventRing :
    (s.setEventCso b).eventRing = s.eventRing.map fun e => { e with cso := b } := rfl
@[simp] theorem State.setEventCso_bareRings : (s.setEventCso b).bareRings = s.bareRings := rfl
@[simp] theorem State.setEventCso_pinned : (s.setEventCso b).pinned = s.pinned := rfl
@[simp] theorem State.setEventCso_dcbaa : (s.setEventCso b).dcbaa = s.dcbaa := rfl
@[simp] theorem State.setEventCso_cap : (s.setEventCso b).cap = s.cap := rfl
@[simp] theorem State.setEventCso_op : (s.setEventCso b).op = s.op := rfl
@[simp] theorem State.setEventCso_dbLocks : (s.setEventCso b).dbLocks = s.dbLocks := rfl
@[simp] theorem State.setEventCso_hc : (s.setEventCso b).hc = s.hc := rfl
@[simp] theorem State.setEventCso_sw : (s.setEventCso b).sw = s.sw := rfl
@[simp] theorem State.setEventCso_ih : (s.setEventCso b).ih = s.ih := rfl
@[simp] theorem State.setEventCso_handlerActive :
    (s.setEventCso b).handlerActive = s.handlerActive := rfl
@[simp] theorem State.setEventCso_cpu : (s.setEventCso b).cpu = s.cpu := rfl
@[simp] theorem State.setEventCso_handlerCode :
    (s.setEventCso b).handlerCode = s.handlerCode := rfl
@[simp] theorem State.setEventCso_faulted : (s.setEventCso b).faulted = s.faulted := rfl
@[simp] theorem State.setEventCso_refused : (s.setEventCso b).refused = s.refused := rfl
@[simp] theorem State.setEventCso_turns : (s.setEventCso b).turns = s.turns := rfl
@[simp] theorem State.setEventCso_serving : (s.setEventCso b).serving = s.serving := rfl
@[simp] theorem State.setEventCso_supply : (s.setEventCso b).supply = s.supply := rfl
@[simp] theorem State.setEventCso_hcSupply : (s.setEventCso b).hcSupply = s.hcSupply := rfl
@[simp] theorem State.setEventCso_drawn : (s.setEventCso b).drawn = s.drawn := rfl
@[simp] theorem State.setEventCso_trace : (s.setEventCso b).trace = s.trace := rfl

end

section

variable (s : State)

@[simp] theorem State.restartEvents_cfg : s.restartEvents.cfg = s.cfg := rfl
@[simp] theorem State.restartEvents_mem : s.restartEvents.mem = s.mem := rfl
@[simp] theorem State.restartEvents_allocs : s.restartEvents.allocs = s.allocs := rfl
@[simp] theorem State.restartEvents_stale : s.restartEvents.stale = s.stale := rfl
@[simp] theorem State.restartEvents_cmdRing : s.restartEvents.cmdRing = s.cmdRing := rfl
@[simp] theorem State.restartEvents_transferRings :
    s.restartEvents.transferRings = s.transferRings := rfl
@[simp] theorem State.restartEvents_eventRing :
    s.restartEvents.eventRing = s.eventRing.map fun e => { e with cso := true, unread := 0 } := rfl
@[simp] theorem State.restartEvents_bareRings : s.restartEvents.bareRings = s.bareRings := rfl
@[simp] theorem State.restartEvents_pinned : s.restartEvents.pinned = s.pinned := rfl
@[simp] theorem State.restartEvents_dcbaa : s.restartEvents.dcbaa = s.dcbaa := rfl
@[simp] theorem State.restartEvents_cap : s.restartEvents.cap = s.cap := rfl
@[simp] theorem State.restartEvents_op : s.restartEvents.op = s.op := rfl
@[simp] theorem State.restartEvents_dbLocks : s.restartEvents.dbLocks = s.dbLocks := rfl
@[simp] theorem State.restartEvents_hc : s.restartEvents.hc = s.hc := rfl
@[simp] theorem State.restartEvents_sw : s.restartEvents.sw = s.sw := rfl
@[simp] theorem State.restartEvents_ih : s.restartEvents.ih = s.ih := rfl
@[simp] theorem State.restartEvents_handlerActive :
    s.restartEvents.handlerActive = s.handlerActive := rfl
@[simp] theorem State.restartEvents_cpu : s.restartEvents.cpu = s.cpu := rfl
@[simp] theorem State.restartEvents_handlerCode :
    s.restartEvents.handlerCode = s.handlerCode := rfl
@[simp] theorem State.restartEvents_faulted : s.restartEvents.faulted = s.faulted := rfl
@[simp] theorem State.restartEvents_refused : s.restartEvents.refused = s.refused := rfl
@[simp] theorem State.restartEvents_turns : s.restartEvents.turns = s.turns := rfl
@[simp] theorem State.restartEvents_serving : s.restartEvents.serving = s.serving := rfl
@[simp] theorem State.restartEvents_supply : s.restartEvents.supply = s.supply := rfl
@[simp] theorem State.restartEvents_hcSupply : s.restartEvents.hcSupply = s.hcSupply := rfl
@[simp] theorem State.restartEvents_drawn : s.restartEvents.drawn = s.drawn := rfl
@[simp] theorem State.restartEvents_trace : s.restartEvents.trace = s.trace := rfl

end

section

variable (s : State) (l : LockId) (v : Lock)

@[simp] theorem State.setLock_cfg : (s.setLock l v).cfg = s.cfg := rfl
@[simp] theorem State.setLock_mem : (s.setLock l v).mem = s.mem := rfl
@[simp] theorem State.setLock_allocs : (s.setLock l v).allocs = s.allocs := rfl
@[simp] theorem State.setLock_stale : (s.setLock l v).stale = s.stale := rfl
@[simp] theorem State.setLock_cmdRing : (s.setLock l v).cmdRing = s.cmdRing := rfl
@[simp] theorem State.setLock_eventRing : (s.setLock l v).eventRing = s.eventRing := rfl
@[simp] theorem State.setLock_bareRings : (s.setLock l v).bareRings = s.bareRings := rfl
@[simp] theorem State.setLock_pinned : (s.setLock l v).pinned = s.pinned := rfl
@[simp] theorem State.setLock_dcbaa : (s.setLock l v).dcbaa = s.dcbaa := rfl
@[simp] theorem State.setLock_cap : (s.setLock l v).cap = s.cap := rfl
@[simp] theorem State.setLock_op : (s.setLock l v).op = s.op := rfl
@[simp] theorem State.setLock_hc : (s.setLock l v).hc = s.hc := rfl
@[simp] theorem State.setLock_sw : (s.setLock l v).sw = s.sw := rfl
@[simp] theorem State.setLock_ih : (s.setLock l v).ih = s.ih := rfl
@[simp] theorem State.setLock_handlerActive :
    (s.setLock l v).handlerActive = s.handlerActive := rfl
@[simp] theorem State.setLock_cpu : (s.setLock l v).cpu = s.cpu := rfl
@[simp] theorem State.setLock_handlerCode : (s.setLock l v).handlerCode = s.handlerCode := rfl
@[simp] theorem State.setLock_faulted : (s.setLock l v).faulted = s.faulted := rfl
@[simp] theorem State.setLock_refused : (s.setLock l v).refused = s.refused := rfl
@[simp] theorem State.setLock_turns : (s.setLock l v).turns = s.turns := rfl
@[simp] theorem State.setLock_serving : (s.setLock l v).serving = s.serving := rfl
@[simp] theorem State.setLock_supply : (s.setLock l v).supply = s.supply := rfl
@[simp] theorem State.setLock_hcSupply : (s.setLock l v).hcSupply = s.hcSupply := rfl
@[simp] theorem State.setLock_drawn : (s.setLock l v).drawn = s.drawn := rfl
@[simp] theorem State.setLock_trace : (s.setLock l v).trace = s.trace := rfl

end

section

variable (s : State) (bs : List Addr)

@[simp] theorem freeAllocs_cfg : (freeAllocs bs s).cfg = s.cfg := rfl
@[simp] theorem freeAllocs_mem : (freeAllocs bs s).mem = s.mem := rfl
@[simp] theorem freeAllocs_allocs :
    (freeAllocs bs s).allocs = s.allocs.filter fun a => !bs.contains a.base := rfl
@[simp] theorem freeAllocs_cmdRing : (freeAllocs bs s).cmdRing = s.cmdRing := rfl
@[simp] theorem freeAllocs_transferRings : (freeAllocs bs s).transferRings = s.transferRings := rfl
@[simp] theorem freeAllocs_eventRing : (freeAllocs bs s).eventRing = s.eventRing := rfl
@[simp] theorem freeAllocs_bareRings : (freeAllocs bs s).bareRings = s.bareRings := rfl
@[simp] theorem freeAllocs_pinned : (freeAllocs bs s).pinned = s.pinned := rfl
@[simp] theorem freeAllocs_dcbaa : (freeAllocs bs s).dcbaa = s.dcbaa := rfl
@[simp] theorem freeAllocs_cap : (freeAllocs bs s).cap = s.cap := rfl
@[simp] theorem freeAllocs_op : (freeAllocs bs s).op = s.op := rfl
@[simp] theorem freeAllocs_dbLocks : (freeAllocs bs s).dbLocks = s.dbLocks := rfl
@[simp] theorem freeAllocs_hc : (freeAllocs bs s).hc = s.hc := rfl
@[simp] theorem freeAllocs_sw : (freeAllocs bs s).sw = s.sw := rfl
@[simp] theorem freeAllocs_ih : (freeAllocs bs s).ih = s.ih := rfl
@[simp] theorem freeAllocs_handlerActive : (freeAllocs bs s).handlerActive = s.handlerActive := rfl
@[simp] theorem freeAllocs_cpu : (freeAllocs bs s).cpu = s.cpu := rfl
@[simp] theorem freeAllocs_handlerCode : (freeAllocs bs s).handlerCode = s.handlerCode := rfl
@[simp] theorem freeAllocs_faulted : (freeAllocs bs s).faulted = s.faulted := rfl
@[simp] theorem freeAllocs_refused : (freeAllocs bs s).refused = s.refused := rfl
@[simp] theorem freeAllocs_turns : (freeAllocs bs s).turns = s.turns := rfl
@[simp] theorem freeAllocs_serving : (freeAllocs bs s).serving = s.serving := rfl
@[simp] theorem freeAllocs_supply : (freeAllocs bs s).supply = s.supply := rfl
@[simp] theorem freeAllocs_hcSupply : (freeAllocs bs s).hcSupply = s.hcSupply := rfl
@[simp] theorem freeAllocs_drawn : (freeAllocs bs s).drawn = s.drawn := rfl
@[simp] theorem freeAllocs_trace : (freeAllocs bs s).trace = s.trace := rfl

end

section

variable (s : State) (o : Owned)

@[simp] theorem dropOwner_cfg : (dropOwner o s).cfg = s.cfg := rfl
@[simp] theorem dropOwner_mem : (dropOwner o s).mem = s.mem := rfl
@[simp] theorem dropOwner_cmdRing :
    (dropOwner o s).cmdRing = if o = .ring .command then none else s.cmdRing := rfl
@[simp] theorem dropOwner_eventRing :
    (dropOwner o s).eventRing = if o = .ring .event then none else s.eventRing := rfl
@[simp] theorem dropOwner_dcbaa :
    (dropOwner o s).dcbaa = if o = .dcbaa then none else s.dcbaa := rfl
@[simp] theorem dropOwner_cap : (dropOwner o s).cap = s.cap := rfl
@[simp] theorem dropOwner_op : (dropOwner o s).op = s.op := rfl
@[simp] theorem dropOwner_dbLocks : (dropOwner o s).dbLocks = s.dbLocks := rfl
@[simp] theorem dropOwner_hc : (dropOwner o s).hc = s.hc := rfl
@[simp] theorem dropOwner_sw : (dropOwner o s).sw = s.sw := rfl
@[simp] theorem dropOwner_ih : (dropOwner o s).ih = s.ih := rfl
@[simp] theorem dropOwner_handlerActive : (dropOwner o s).handlerActive = s.handlerActive := rfl
@[simp] theorem dropOwner_cpu : (dropOwner o s).cpu = s.cpu := rfl
@[simp] theorem dropOwner_handlerCode : (dropOwner o s).handlerCode = s.handlerCode := rfl
@[simp] theorem dropOwner_faulted : (dropOwner o s).faulted = s.faulted := rfl
@[simp] theorem dropOwner_refused : (dropOwner o s).refused = s.refused := rfl
@[simp] theorem dropOwner_turns : (dropOwner o s).turns = s.turns := rfl
@[simp] theorem dropOwner_serving : (dropOwner o s).serving = s.serving := rfl
@[simp] theorem dropOwner_supply : (dropOwner o s).supply = s.supply := rfl
@[simp] theorem dropOwner_hcSupply : (dropOwner o s).hcSupply = s.hcSupply := rfl
@[simp] theorem dropOwner_drawn : (dropOwner o s).drawn = s.drawn := rfl
@[simp] theorem dropOwner_trace : (dropOwner o s).trace = s.trace := rfl

end

section

variable (s : State)

@[simp] theorem dispatch_cfg : (dispatch s).cfg = s.cfg := rfl
@[simp] theorem dispatch_mem : (dispatch s).mem = s.mem := rfl
@[simp] theorem dispatch_allocs : (dispatch s).allocs = s.allocs := rfl
@[simp] theorem dispatch_stale : (dispatch s).stale = s.stale := rfl
@[simp] theorem dispatch_cmdRing : (dispatch s).cmdRing = s.cmdRing := rfl
@[simp] theorem dispatch_transferRings : (dispatch s).transferRings = s.transferRings := rfl
@[simp] theorem dispatch_eventRing : (dispatch s).eventRing = s.eventRing := rfl
@[simp] theorem dispatch_bareRings : (dispatch s).bareRings = s.bareRings := rfl
@[simp] theorem dispatch_pinned : (dispatch s).pinned = s.pinned := rfl
@[simp] theorem dispatch_dcbaa : (dispatch s).dcbaa = s.dcbaa := rfl
@[simp] theorem dispatch_cap : (dispatch s).cap = s.cap := rfl
@[simp] theorem dispatch_op : (dispatch s).op = s.op := rfl
@[simp] theorem dispatch_dbLocks : (dispatch s).dbLocks = s.dbLocks := rfl
@[simp] theorem dispatch_hc : (dispatch s).hc = s.hc := rfl
@[simp] theorem dispatch_sw : (dispatch s).sw = s.sw := rfl
@[simp] theorem dispatch_ih : (dispatch s).ih = s.ih := rfl
@[simp] theorem dispatch_handlerActive : (dispatch s).handlerActive = s.handlerActive := rfl
@[simp] theorem dispatch_cpu :
    (dispatch s).cpu = if s.handlerActive && !ihAwaits s then .ih else .sw := rfl
@[simp] theorem dispatch_handlerCode : (dispatch s).handlerCode = s.handlerCode := rfl
@[simp] theorem dispatch_faulted : (dispatch s).faulted = s.faulted := rfl
@[simp] theorem dispatch_refused : (dispatch s).refused = s.refused := rfl
@[simp] theorem dispatch_turns : (dispatch s).turns = s.turns := rfl
@[simp] theorem dispatch_serving : (dispatch s).serving = s.serving := rfl
@[simp] theorem dispatch_supply : (dispatch s).supply = s.supply := rfl
@[simp] theorem dispatch_hcSupply : (dispatch s).hcSupply = s.hcSupply := rfl
@[simp] theorem dispatch_drawn : (dispatch s).drawn = s.drawn := rfl
@[simp] theorem dispatch_trace : (dispatch s).trace = s.trace := rfl

end

section

variable (s : State) (sel : RingSel) (h : HcRing)

@[simp] theorem moveHcRing_cfg : (moveHcRing sel h s).cfg = s.cfg := rfl
@[simp] theorem moveHcRing_mem : (moveHcRing sel h s).mem = s.mem := rfl
@[simp] theorem moveHcRing_allocs : (moveHcRing sel h s).allocs = s.allocs := rfl
@[simp] theorem moveHcRing_stale : (moveHcRing sel h s).stale = s.stale := rfl
@[simp] theorem moveHcRing_cmdRing : (moveHcRing sel h s).cmdRing = s.cmdRing := rfl
@[simp] theorem moveHcRing_transferRings :
    (moveHcRing sel h s).transferRings = s.transferRings := rfl
@[simp] theorem moveHcRing_eventRing : (moveHcRing sel h s).eventRing = s.eventRing := rfl
@[simp] theorem moveHcRing_bareRings : (moveHcRing sel h s).bareRings = s.bareRings := rfl
@[simp] theorem moveHcRing_pinned : (moveHcRing sel h s).pinned = s.pinned := rfl
@[simp] theorem moveHcRing_dcbaa : (moveHcRing sel h s).dcbaa = s.dcbaa := rfl
@[simp] theorem moveHcRing_cap : (moveHcRing sel h s).cap = s.cap := rfl
@[simp] theorem moveHcRing_op : (moveHcRing sel h s).op = s.op := rfl
@[simp] theorem moveHcRing_dbLocks : (moveHcRing sel h s).dbLocks = s.dbLocks := rfl
@[simp] theorem moveHcRing_hc : (moveHcRing sel h s).hc = setHcRing s.hc sel h := rfl
@[simp] theorem moveHcRing_sw : (moveHcRing sel h s).sw = s.sw := rfl
@[simp] theorem moveHcRing_ih : (moveHcRing sel h s).ih = s.ih := rfl
@[simp] theorem moveHcRing_handlerActive :
    (moveHcRing sel h s).handlerActive = s.handlerActive := rfl
@[simp] theorem moveHcRing_cpu : (moveHcRing sel h s).cpu = s.cpu := rfl
@[simp] theorem moveHcRing_handlerCode : (moveHcRing sel h s).handlerCode = s.handlerCode := rfl
@[simp] theorem moveHcRing_faulted : (moveHcRing sel h s).faulted = s.faulted := rfl
@[simp] theorem moveHcRing_refused : (moveHcRing sel h s).refused = s.refused := rfl
@[simp] theorem moveHcRing_turns : (moveHcRing sel h s).turns = s.turns := rfl
@[simp] theorem moveHcRing_serving : (moveHcRing sel h s).serving = s.serving := rfl
@[simp] theorem moveHcRing_supply : (moveHcRing sel h s).supply = s.supply := rfl
@[simp] theorem moveHcRing_hcSupply : (moveHcRing sel h s).hcSupply = s.hcSupply := rfl
@[simp] theorem moveHcRing_drawn : (moveHcRing sel h s).drawn = s.drawn := rfl
@[simp] theorem moveHcRing_trace : (moveHcRing sel h s).trace = s.trace := rfl

end

section

variable (s : State) (t : Trb)

@[simp] theorem enqueueEvent_cfg : (enqueueEvent t s).cfg = s.cfg := rfl
@[simp] theorem enqueueEvent_mem : (enqueueEvent t s).mem = s.mem := rfl
@[simp] theorem enqueueEvent_allocs : (enqueueEvent t s).allocs = s.allocs := rfl
@[simp] theorem enqueueEvent_stale : (enqueueEvent t s).stale = s.stale := rfl
@[simp] theorem enqueueEvent_cmdRing : (enqueueEvent t s).cmdRing = s.cmdRing := rfl
@[simp] theorem enqueueEvent_transferRings :
    (enqueueEvent t s).transferRings = s.transferRings := rfl
@[simp] theorem enqueueEvent_eventRing : (enqueueEvent t s).eventRing = s.eventRing := rfl
@[simp] theorem enqueueEvent_bareRings : (enqueueEvent t s).bareRings = s.bareRings := rfl
@[simp] theorem enqueueEvent_pinned : (enqueueEvent t s).pinned = s.pinned := rfl
@[simp] theorem enqueueEvent_dcbaa : (enqueueEvent t s).dcbaa = s.dcbaa := rfl
@[simp] theorem enqueueEvent_cap : (enqueueEvent t s).cap = s.cap := rfl
@[simp] theorem enqueueEvent_op : (enqueueEvent t s).op = s.op := rfl
@[simp] theorem enqueueEvent_dbLocks : (enqueueEvent t s).dbLocks = s.dbLocks := rfl
@[simp] theorem enqueueEvent_hc :
    (enqueueEvent t s).hc = { s.hc with unposted := s.hc.unposted ++ [t] } := rfl
@[simp] theorem enqueueEvent_sw : (enqueueEvent t s).sw = s.sw := rfl
@[simp] theorem enqueueEvent_ih : (enqueueEvent t s).ih = s.ih := rfl
@[simp] theorem enqueueEvent_handlerActive :
    (enqueueEvent t s).handlerActive = s.handlerActive := rfl
@[simp] theorem enqueueEvent_cpu : (enqueueEvent t s).cpu = s.cpu := rfl
@[simp] theorem enqueueEvent_handlerCode : (enqueueEvent t s).handlerCode = s.handlerCode := rfl
@[simp] theorem enqueueEvent_faulted : (enqueueEvent t s).faulted = s.faulted := rfl
@[simp] theorem enqueueEvent_refused : (enqueueEvent t s).refused = s.refused := rfl
@[simp] theorem enqueueEvent_turns : (enqueueEvent t s).turns = s.turns := rfl
@[simp] theorem enqueueEvent_serving : (enqueueEvent t s).serving = s.serving := rfl
@[simp] theorem enqueueEvent_supply : (enqueueEvent t s).supply = s.supply := rfl
@[simp] theorem enqueueEvent_hcSupply : (enqueueEvent t s).hcSupply = s.hcSupply := rfl
@[simp] theorem enqueueEvent_drawn : (enqueueEvent t s).drawn = s.drawn := rfl
@[simp] theorem enqueueEvent_trace : (enqueueEvent t s).trace = s.trace := rfl

end

/-! ### The running agent's context -/

/-- The context just set is the running agent's. -/
@[simp] theorem State.setCtx_ctx (s : State) (c : Ctx) : (s.setCtx c).ctx = c := by
  unfold State.ctx
  rw [State.setCtx_cpu]
  cases h : s.cpu <;> simp [State.ctxOf, State.setCtx, h]

@[simp] theorem State.finish_ctx (s : State) (r : Result) :
    (s.finish r).ctx = { s.ctx with current := none, result := r } := State.setCtx_ctx _ _

@[simp] theorem State.suspend_ctx (s : State) (i : Instr) (vs : List Val) (on : Option Awaited) :
    (s.suspend i vs on).ctx = { s.ctx with current := some { instr := i, answers := vs, awaits := on } } := State.setCtx_ctx _ _

/-- Setting the context twice is setting it once. -/
@[simp] theorem State.setCtx_setCtx (s : State) (c c' : Ctx) : (s.setCtx c).setCtx c' = s.setCtx c' := by
  cases h : s.cpu <;> simp [State.setCtx, h]

end Sys2Proof.Machine
end

