-- ==== Sys2Proof/Laws/Controller.lean ====
section
/-! SUPPORT. What the controller's fetches and the execution of a record can do to the state, said once. -/

namespace Sys2Proof.Machine

open Sys2Proof

/-! ### The flags of the rings -/

/-- Flipping the flag of a ring that stands sets it to the negation of what it is. -/
theorem State.flipCso_of {s : State} {o : RingOwner} {c : Bool} (h : s.cso? o = some c) :
    s.flipCso o = s.setCso o (!c) := by simp [State.flipCso, h]

theorem State.flipEventCso_of {s : State} {e : EventRing} (h : s.eventRing = some e) :
    s.flipEventCso = s.setEventCso (!e.cso) := by simp [State.flipEventCso, h]

/-! ### Fetching -/

/-- A fetch reads 16 bytes and takes nothing but free values from the state. -/
theorem fetchAt_some {s t : State} {a : Addr} {bs : List Byte} (h : fetchAt s a = some (bs, t)) :
    bs.length = 16 ∧ a.toNat % 16 = 0 ∧ t = { s with supply := t.supply, drawn := t.drawn } := by
  unfold fetchAt at h
  split at h
  next ha =>
    split at h
    · cases h
      exact ⟨by simp [fetchBytes], ha, rfl⟩
    · split at h
      · cases h
        exact ⟨by simp, ha, rfl⟩
      · cases h
  · cases h

/-- The fetch of the record at a pointer in live memory is the read of it (R82). -/
theorem fetchAt_live {s : State} {a : Addr} (ha : a.toNat % 16 = 0) (hl : insideLive s a 16 = true) :
    fetchAt s a = some (fetchBytes s a, s) := by simp [fetchAt, ha, hl]

/-- A fetch is made only while the controller runs and holds no record of the slot. -/
theorem fetchRing_some {s t : State} {sel : RingSel} {r : HcRing} {bs : List Byte}
    (h : fetchRing s sel r = some (bs, t)) :
    running s.cfg.layout s.op = true ∧ holdsFrom s.hc sel = false ∧ fetchAt s r.p = some (bs, t) := by
  unfold fetchRing at h
  split at h
  next hc =>
    rw [Bool.and_eq_true, Bool.not_eq_true'] at hc
    exact ⟨hc.1, hc.2, h⟩
  · cases h

/-- The fetch step changes the records held and takes free values, nothing else. -/
theorem hcHold_frame (k : Nat) (s : State) :
    ∃ new, hcHold k s =
      { s with
        hc := { s.hc with held := s.hc.held ++ new, known := (hcHold k s).hc.known }
        supply := (hcHold k s).supply
        drawn := (hcHold k s).drawn } := by
  have same : ∃ new, s = { s with hc := { s.hc with held := s.hc.held ++ new } } := ⟨[], by simp⟩
  unfold hcHold
  split
  · exact same
  next e _ =>
    split
    · exact same
    next bytes t hf =>
      dsimp only
      split
      · have ht := (fetchAt_some (fetchRing_some hf).2.2).2.2
        generalize t.supply = a at ht
        generalize t.drawn = b at ht
        subst ht
        exact ⟨[_], rfl⟩
      · exact same

/-! ### What the controller may hold the address of (R295, R346, R368) -/

theorem reachFrom_congr {s u : State} (hm : s.mem = u.mem) :
    ∀ n ls as, reachFrom s n ls as = reachFrom u n ls as
  | 0, _, _ => rfl
  | n + 1, ls, as => by
    have h : addressWords s = addressWords u := by funext l; simp [addressWords, hm]
    simp only [reachFrom, h, reachFrom_congr hm n]

/-- What the controller can reach is a matter of the memory, the live allocations and what it holds. -/
theorem inReach_congr {s u : State} (hm : s.mem = u.mem) (ha : s.allocs = u.allocs) (hh : s.hc = u.hc) (l : Alloc) :
    inReach s l = inReach u l := by
  simp only [inReach, reachable, reachFrom_congr hm, ha, hh]

/-- From no address nothing is reached. -/
theorem reachFrom_nil (s : State) : ∀ n ls, reachFrom s n ls [] = []
  | 0, _ => rfl
  | n + 1, ls => by
    have h : ls.filter (fun l => l.named []) = [] := List.filter_eq_nil_iff.2 fun _ _ h => by simp [Alloc.named] at h
    simp [reachFrom, List.partition_eq_filter_filter, h, reachFrom_nil s n]

/-- A controller that has been given no address since its last completed reset holds none (R346). -/
theorem inReach_of_known_nil {s : State} (hk : s.hc.known = []) (hh : s.hc.held = []) (l : Alloc) :
    inReach s l = false := by
  simp [inReach, reachable, hk, hh, reachFrom_nil, Alloc.named]

/-- What is known at the start is reached. -/
theorem mem_reachFrom (s : State) {a : Addr} : ∀ n ls as, a ∈ as → a ∈ reachFrom s n ls as
  | 0, _, _, h => h
  | n + 1, _, _, h => mem_reachFrom s n _ _ (List.mem_append_right _ h)

/-- The controller may hold an address in each block that contains one it has been given. -/
theorem inReach_of_known {s : State} {l : Alloc} {a : Addr} (ha : a ∈ s.hc.known) (hl : l.has a.toNat = true) :
    inReach s l = true :=
  List.any_eq_true.2 ⟨a, mem_reachFrom s _ _ _ (List.mem_append_right _ ha), hl⟩

/-! ### Executing a transfer TRB -/

/-- Received bytes lie in their buffer, the memory keeps its form, and free values are taken. -/
theorem receive_frame : ∀ (n a : Nat) (s : State), s.mem.wf = true →
    (receive a n s).mem.wf = true ∧
    (∀ x, x < a ∨ a + n ≤ x → (receive a n s).mem.read x = s.mem.read x) ∧
    receive a n s =
      { s with mem := (receive a n s).mem, supply := (receive a n s).supply, drawn := (receive a n s).drawn }
  | 0, _, _, h => ⟨h, fun _ _ => rfl, rfl⟩
  | n + 1, a, s, h => by
    have hw := Memory.write_wf h a (s.draw.1.setWidth 8)
    obtain ⟨h1, h2, h3⟩ := receive_frame n (a + 1) { s.draw.2 with mem := s.mem.write a (s.draw.1.setWidth 8) } hw
    refine ⟨h1, fun x hx => ?_, ?_⟩
    · refine (h2 x (by omega)).trans ?_
      exact (Memory.read_write h a _ x).trans (if_neg (by omega))
    · exact h3

theorem dataRun_le (s : State) (p : Addr) : ∀ a n, dataRun s p a n ≤ n
  | _, 0 => Nat.le_refl 0
  | a, n + 1 => by
    unfold dataRun
    split
    · exact Nat.succ_le_succ (dataRun_le s p (a + 1) n)
    · exact Nat.zero_le _

/-- Every byte that `dataRun` counts is one the controller may write. -/
theorem dataByte_of_lt_dataRun (s : State) (p : Addr) :
    ∀ a n x, a ≤ x → x < a + dataRun s p a n → dataByte s p x = true
  | _, 0, x, h1, h2 => absurd h2 (by simp only [dataRun]; omega)
  | a, n + 1, x, h1, h2 => by
    unfold dataRun at h2
    split at h2
    next hb =>
      rcases Nat.eq_or_lt_of_le h1 with rfl | h
      · exact hb
      · exact dataByte_of_lt_dataRun s p (a + 1) n x h (by omega)
    · omega

theorem upTo_le (bound : Nat) (free : Word64) : upTo bound free ≤ bound := by
  unfold upTo
  split
  · exact Nat.zero_le _
  · exact Nat.le_of_lt_succ (Nat.mod_lt _ (Nat.succ_pos _))

/-- A transfer of a record at `p` moves at most its length, writes only where the controller may, and takes free
values. -/
theorem transferData_frame (t : Trb) (p : Addr) (s : State) (h : s.mem.wf = true) :
    (transferData t p s).1 ≤ (trbTransferLength s.cfg.layout t).toNat ∧
    (transferData t p s).2.mem.wf = true ∧
    (∀ x, (transferData t p s).2.mem.read x ≠ s.mem.read x → dataByte s p x = true) ∧
    (transferData t p s).2 =
      { s with
        mem := (transferData t p s).2.mem
        supply := (transferData t p s).2.supply
        drawn := (transferData t p s).2.drawn } := by
  unfold transferData
  dsimp only
  split
  · have hw : s.draw.2.mem.wf = true := h
    have hk := upTo_le
      (min (trbTransferLength s.cfg.layout t).toNat
        (dataRun s.draw.2 p t.param.toNat (trbTransferLength s.cfg.layout t).toNat)) s.draw.1
    obtain ⟨h1, h2, h3⟩ := receive_frame _ t.param.toNat s.draw.2 hw
    refine ⟨hk.trans (Nat.min_le_left _ _), h1, fun x hx => ?_, h3⟩
    have hin := mt (h2 x) hx
    have hr := hk.trans (Nat.min_le_right _ _)
    exact dataByte_of_lt_dataRun s.draw.2 p t.param.toNat (trbTransferLength s.cfg.layout t).toNat x (by omega) (by omega)
  · exact ⟨upTo_le _ _, h, fun x hx => absurd rfl hx, rfl⟩

/-- The pointer of the ring a held record came from moves past its slot, and nothing else changes. -/
theorem passHeld_frame (h : HeldTrb) (s : State) :
    passHeld h s = { s with hc := { s.hc with endpoints := (passHeld h s).hc.endpoints } } := by
  unfold passHeld
  split
  · rfl
  · split <;> rfl

end Sys2Proof.Machine
end

