-- ==== Sys2Proof/Laws/Keeps.lean ====
section
/-! SUPPORT. What every operation can do to the state, said once: an operation is made of a few kinds of access and
update (`Stable` lists them), so a predicate that each of those keeps is kept by every operation, run whole or one
access at a time. -/

namespace Sys2Proof.Machine

open Sys2Proof

/-- Every access of `p`, whatever the answers before it, keeps `I`. -/
def Prog.Keeps (I : State → Prop) : Prog → Prop
  | .ret _ => True
  | .fatal _ => True
  | .refuse _ => True
  | .act m k => (∀ s s' v, I s → m s = .done s' v → I s') ∧ ∀ v, Prog.Keeps I (k v)

/-- What an allocation of a kind is asked for. -/
def AllocAsked (kind : AllocKind) (size align : Nat) : Prop :=
  match kind with
  | .ring => size = Config.ringBytes ∧ align = Config.page
  | .buffer => size = Config.bufSize ∧ align = Config.page
  | .dcbaa => size = Config.dcbaaBytes ∧ align = Config.page
  | .other => True

/-- A predicate kept by each kind of access and update that operations are made of. -/
structure Stable (I : State → Prop) : Prop where
  log : ∀ s k l n v, I s → I (s.log k l n v)
  draw : ∀ s, I s → I s.draw.2
  read : ∀ s l n v s', I s → s.readLoc n l = .ok (v, s') → I s'
  write : ∀ s l n v s', I s → s.writeLoc n v l = .ok s' → I s'
  lock : ∀ s l v, I s → I (s.setLock l v)
  index : ∀ s r i, I s → I (s.setIndex r i)
  move : ∀ s r i, I s → I (s.moveIndex r i)
  cso : ∀ s o b, I s → I (s.setCso o b)
  deq : ∀ s k d, I s → I (s.setDeq k d)
  eventCso : ∀ s b, I s → I (s.setEventCso b)
  restart : ∀ s, I s → I s.restartEvents
  installRing : ∀ s place p, I s → I (installRing place p s)
  installCommandRing : ∀ s p, I s → I (installCommandRing p s)
  installTransferRing : ∀ s k p bufs, I s → I (installTransferRing k p bufs s)
  installPinned : ∀ s k p n, I s → I (installPinned k p n s)
  installDcbaa : ∀ s p, I s → I (installDcbaa p s)
  alloc : ∀ s size align kind, I s → AllocAsked kind size align → admissible s size align s.draw.1 = true →
    I { s.draw.2 with
        mem := s.mem.clear s.draw.1.toNat size
        allocs := { base := s.draw.1, size := size, kind := kind } :: s.allocs }

/-- A predicate kept by the ways an operation ends or stays in progress. -/
structure Ends (I : State → Prop) : Prop where
  finish : ∀ s r, I s → I (s.finish r)
  suspend : ∀ s i as on, I s → I (s.suspend i as on)
  fatal : ∀ s c, I s → I (raiseFatal c s)
  refuse : ∀ s r, I s → I (raiseRefusal r s)

/-! ### Running -/

theorem run_keeps {I : State → Prop} (he : Ends I) (i : Instr) :
    ∀ (p : Prog) (as : List Val) (s : State), p.Keeps I → I s → I (run i p as s)
  | .ret r, _, s, _, hs => he.finish s r hs
  | .fatal c, _, s, _, hs => he.fatal s c hs
  | .refuse r, _, s, _, hs => he.refuse s r hs
  | .act m k, as, s, hp, hs => by
    rw [run]
    cases hm : m s with
    | done s' v => exact run_keeps he i (k v) _ s' (hp.2 v) (hp.1 s s' v hs hm)
    | hold on => exact he.suspend s i as on hs
    | refuse r => exact he.refuse s r hs
    | fatal c => exact he.fatal s c hs

theorem settle_keeps {I : State → Prop} (he : Ends I) (i : Instr) (as : List Val) {s : State} (hs : I s) (p : Prog) :
    I (settle i as s p) := by
  cases p with
  | ret r => exact he.finish s r hs
  | fatal c => exact he.fatal s c hs
  | refuse r => exact he.refuse s r hs
  | act m k => exact he.suspend s i as none hs

theorem runOne_keeps {I : State → Prop} (he : Ends I) (i : Instr) (as : List Val) {s : State} {p : Prog}
    (hp : p.Keeps I) (hs : I s) : I (runOne i as s p) := by
  cases p with
  | ret r => exact he.finish s r hs
  | fatal c => exact he.fatal s c hs
  | refuse r => exact he.refuse s r hs
  | act m k =>
    rw [runOne]
    cases hm : m s with
    | done s' v => exact settle_keeps he i _ (hp.1 s s' v hs hm) (k v)
    | hold on => exact he.suspend s i as on hs
    | refuse r => exact he.refuse s r hs
    | fatal c => exact he.fatal s c hs

theorem feed_keeps {I : State → Prop} : ∀ (p : Prog) (as : List Val), p.Keeps I → (feed p as).Keeps I
  | p, [], hp => by cases p <;> exact hp
  | .act _ k, v :: vs, hp => feed_keeps (k v) vs (hp.2 v)
  | .ret _, _ :: _, _ => trivial
  | .fatal _, _ :: _, _ => trivial
  | .refuse _, _ :: _, _ => trivial

theorem guarded_keeps {I : State → Prop} {s n t : State} (hn : I n) (h : guarded s n = .next t) : I t := by
  unfold guarded at h
  split at h
  · cases h
  · split at h
    · cases h
    · cases h; exact hn

theorem runOp_keeps {I : State → Prop} (he : Ends I) {i : Instr} {p : Prog} {s t : State} (hp : p.Keeps I) (hs : I s)
    (h : runOp i p s = .next t) : I t := guarded_keeps (run_keeps he i p [] s hp hs) h

/-! ### The accesses and updates -/

section

variable {I : State → Prop} (hI : Stable I)

include hI

omit hI in
theorem keeps_ret {r : Result} : (Prog.ret r).Keeps I := trivial

omit hI in
theorem keeps_fatal {c : FatalCode} : (Prog.fatal c).Keeps I := trivial

theorem keeps_readOnce {l : Loc} {n : Nat} {k : Word64 → Prog} (h : ∀ v, (k v).Keeps I) :
    (readOnce l n k).Keeps I := by
  refine ⟨fun s s' v hs hm => ?_, fun v => h _⟩
  dsimp only at hm
  cases hr : s.readLoc n l with
  | error e => rw [hr] at hm; cases hm
  | ok q =>
    rw [hr] at hm
    cases hm
    exact hI.log _ _ _ _ _ (hI.read _ _ _ _ _ hs hr)

theorem keeps_writeOnce {l : Loc} {n : Nat} {v : Word64} {k : Prog} (h : k.Keeps I) : (writeOnce l n v k).Keeps I := by
  refine ⟨fun s s' w hs hm => ?_, fun _ => h⟩
  dsimp only at hm
  cases hr : s.writeLoc n v l with
  | error e => rw [hr] at hm; cases hm
  | ok q =>
    rw [hr] at hm
    cases hm
    exact hI.log _ _ _ _ _ (hI.write _ _ _ _ _ hs hr)

omit hI in
theorem keeps_askSplit {k : Bool → Prog} (h : ∀ b, (k b).Keeps I) : (askSplit k).Keeps I :=
  ⟨fun _ _ _ hs hm => by cases hm; exact hs, fun _ => h _⟩

theorem keeps_readWord {l : Loc} {n : Nat} {k : Word64 → Prog} (h : ∀ v, (k v).Keeps I) :
    (readWord l n k).Keeps I := by
  unfold readWord
  split
  · refine keeps_askSplit fun b => ?_
    split
    · exact keeps_readOnce hI fun _ => keeps_readOnce hI fun _ => h _
    · exact keeps_readOnce hI h
  · exact keeps_readOnce hI h

theorem keeps_writeWord {l : Loc} {n : Nat} {v : Word64} {k : Prog} (h : k.Keeps I) : (writeWord l n v k).Keeps I := by
  unfold writeWord
  split
  · refine keeps_askSplit fun b => ?_
    split
    · exact keeps_writeOnce hI (keeps_writeOnce hI h)
    · exact keeps_writeOnce hI h
  · exact keeps_writeOnce hI h

theorem keeps_readBitsAt {l : Loc} {n a b : Nat} {k : Word64 → Prog} (h : ∀ v, (k v).Keeps I) :
    (readBitsAt l n a b k).Keeps I := by
  unfold readBitsAt
  split
  · trivial
  · exact keeps_readWord hI fun _ => h _

theorem keeps_writeBitsAt {l : Loc} {n a b : Nat} {v : Word64} {k : Prog} (h : k.Keeps I) :
    (writeBitsAt l n a b v k).Keeps I := by
  unfold writeBitsAt
  split
  · trivial
  · exact keeps_readWord hI fun _ => keeps_writeWord hI h

theorem keeps_await {r : Reg} {n : Nat} {b : Bool} {k : Prog} (h : k.Keeps I) : (await r n b k).Keeps I := by
  refine ⟨fun s s' w hs hm => ?_, fun _ => h⟩
  dsimp only at hm
  cases hr : s.readReg r with
  | error e => rw [hr] at hm; cases hm
  | ok q =>
    rw [hr] at hm
    dsimp only at hm
    split at hm
    · cases hm
      exact hI.log _ _ _ _ _ (hI.read _ (.reg r) 4 _ _ hs hr)
    · cases hm

theorem keeps_acquire {l : LockId} {k : Prog} (h : k.Keeps I) : (acquire l k).Keeps I := by
  refine ⟨fun s s' w hs hm => ?_, fun _ => h⟩
  dsimp only at hm
  split at hm
  · cases hm
    exact hI.lock _ _ _ hs
  · cases hm
  · cases hm

theorem keeps_release {l : LockId} {k : Prog} (h : k.Keeps I) : (release l k).Keeps I :=
  ⟨fun s s' w hs hm => by cases hm; exact hI.lock _ _ _ hs, fun _ => h⟩

omit hI in
theorem keeps_update {f : State → State} {k : Prog} (hf : ∀ s, I s → I (f s)) (h : k.Keeps I) :
    (update f k).Keeps I :=
  ⟨fun s s' w hs hm => by cases hm; exact hf s hs, fun _ => h⟩

theorem keeps_drawWord {k : Word64 → Prog} (h : ∀ v, (k v).Keeps I) : (drawWord k).Keeps I :=
  ⟨fun s s' w hs hm => by cases hm; exact hI.draw s hs, fun _ => h _⟩

omit hI in
/-- An access that only answers. -/
theorem keeps_ask {m : State → Act} {k : Val → Prog} (hm : ∀ s s' v, m s = .done s' v → s' = s)
    (h : ∀ v, (k v).Keeps I) : (Prog.act m k).Keeps I :=
  ⟨fun s s' v hs e => hm s s' v e ▸ hs, h⟩

omit hI in
theorem keeps_getRing {r : RingId} {k : RingBuf → Prog} (h : ∀ b, (k b).Keeps I) : (getRing r k).Keeps I :=
  keeps_ask (fun s s' v e => by split at e <;> cases e; rfl) fun _ => h _

omit hI in
theorem keeps_getCso {o : RingOwner} {k : Bool → Prog} (h : ∀ b, (k b).Keeps I) : (getCso o k).Keeps I :=
  keeps_ask (fun s s' v e => by split at e <;> cases e; rfl) fun _ => h _

omit hI in
theorem keeps_getEventCso {k : Bool → Prog} (h : ∀ b, (k b).Keeps I) : (getEventCso k).Keeps I :=
  keeps_ask (fun s s' v e => by split at e <;> cases e; rfl) fun _ => h _

omit hI in
theorem keeps_getTransfer {j : Nat} {k : TransferRing → Prog} (h : ∀ t, (k t).Keeps I) : (getTransfer j k).Keeps I :=
  keeps_ask (fun s s' v e => by split at e <;> cases e; rfl) fun _ => h _

omit hI in
theorem keeps_getParams {k : Params → Prog} (h : ∀ p, (k p).Keeps I) : (getParams k).Keeps I :=
  keeps_ask (fun s s' v e => by cases e; rfl) fun _ => h _

omit hI in
theorem keeps_getDcbaa {k : Addr → Prog} (h : ∀ b, (k b).Keeps I) : (getDcbaa k).Keeps I :=
  keeps_ask (fun s s' v e => by split at e <;> cases e; rfl) fun _ => h _

omit hI in
theorem keeps_require {c : State → Bool} {why : Refusal} {k : Prog} (h : k.Keeps I) : (require c why k).Keeps I :=
  keeps_ask (fun s s' v e => by split at e <;> cases e; rfl) fun _ => h

omit hI in
/-- A look ahead changes nothing (R300, log 37). -/
theorem keeps_precise {p : Prog} (h : p.Keeps I) : (precise p).Keeps I :=
  keeps_ask (fun s s' v e => by split at e <;> cases e; rfl) fun _ => h

omit hI in
theorem keeps_needs {ok : Bool} {why : Refusal} {k : Prog} (h : k.Keeps I) : (needs ok why k).Keeps I := by
  unfold needs
  split
  · exact h
  · trivial

omit hI in
theorem keeps_withWord {w : WordRef} {u : Use} {k : Loc → Prog} (h : ∀ l, (k l).Keeps I) : (withWord w u k).Keeps I :=
  keeps_ask (fun s s' v e => by split at e <;> cases e; rfl) fun _ => h _

theorem keeps_allocate {size align : Nat} {kind : AllocKind} {k : Addr → Prog} (ha : AllocAsked kind size align)
    (h : ∀ p, (k p).Keeps I) : (allocate size align kind k).Keeps I := by
  refine ⟨fun s s' w hs hm => ?_, fun _ => h _⟩
  dsimp only at hm
  split at hm
  · cases hm
    exact hI.alloc _ _ _ _ hs ha ‹_›
  · cases hm

theorem keeps_lockRing {r : RingId} {k : Prog} (h : k.Keeps I) : (lockRing r k).Keeps I := by
  cases r with
  | transfer j => exact keeps_acquire hI h
  | command => exact h
  | event => exact h
  | bare j => exact h

theorem keeps_unlockRing {r : RingId} {k : Prog} (h : k.Keeps I) : (unlockRing r k).Keeps I := by
  cases r with
  | transfer j => exact keeps_release hI h
  | command => exact h
  | event => exact h
  | bare j => exact h

/-! ### Shared operations -/

theorem keeps_storeTrb {a : Addr} {t : Trb} {k : Prog} (h : k.Keeps I) : (storeTrb a t k).Keeps I :=
  keeps_readBitsAt hI fun _ => keeps_writeWord hI (keeps_writeWord hI (keeps_writeWord hI h))

theorem keeps_loadTrb {a : Addr} {k : Trb → Prog} (h : ∀ t, (k t).Keeps I) : (loadTrb a k).Keeps I :=
  keeps_readWord hI fun _ => keeps_readWord hI fun _ => keeps_readWord hI fun _ => h _

theorem keeps_atSlot {r : RingId} {i : Nat} {k : Addr → Prog} (h : ∀ a, (k a).Keeps I) : (atSlot r i k).Keeps I := by
  refine keeps_lockRing hI (keeps_getRing fun b => ?_)
  split
  · trivial
  · exact h _

theorem keeps_ofTrb {t : TrbSrc} {f : Trb → Result} {g : Addr → (Result → Prog) → Prog}
    (h : ∀ a (k : Result → Prog), (∀ r, (k r).Keeps I) → (g a k).Keeps I) : (ofTrb t f g).Keeps I := by
  cases t with
  | value v => trivial
  | slot r i =>
    dsimp only [ofTrb]
    exact keeps_atSlot hI fun a => h a _ fun _ => keeps_unlockRing hI keeps_ret

theorem keeps_controlField {shift width : Nat} {f : Word64 → Result} {a : Addr} {k : Result → Prog}
    (h : ∀ r, (k r).Keeps I) : (controlField shift width f a k).Keeps I :=
  keeps_readBitsAt hI fun _ => h _

theorem keeps_advance {r : RingId} {c : Bool} {k : Prog} (h : k.Keeps I) : (advance r c k).Keeps I := by
  refine keeps_getRing fun b => keeps_readBitsAt hI fun v => ?_
  split
  · trivial
  · exact keeps_writeBitsAt hI (keeps_update (fun s => hI.move s r _) h)

theorem keeps_advanceNotoggle {r : RingId} {c : Bool} {k : Prog} (h : k.Keeps I) : (advanceNotoggle r c k).Keeps I := by
  refine keeps_getRing fun b => keeps_readBitsAt hI fun v => ?_
  split
  · exact keeps_update (fun s => hI.move s r _) h
  · trivial

theorem keeps_clearCycles {base : Addr} {k : Prog} (h : k.Keeps I) : ∀ n i, (clearCycles base n i k).Keeps I
  | 0, _ => h
  | n + 1, i => keeps_writeBitsAt hI (keeps_clearCycles h n (i + 1))

theorem keeps_resetRing {r : RingId} {k : Prog} (h : k.Keeps I) : (resetRing r k).Keeps I :=
  keeps_getRing fun _ => keeps_update (fun s => hI.index s r 0) (keeps_clearCycles hI h _ _)

/-- Flipping a flag is setting it. -/
theorem keeps_flipCso {s : State} (o : RingOwner) (h : I s) : I (s.flipCso o) := by
  unfold State.flipCso
  split
  · exact hI.cso s o _ h
  · exact h

theorem keeps_flipEventCso {s : State} (h : I s) : I s.flipEventCso := by
  unfold State.flipEventCso
  split
  · exact hI.eventCso s _ h
  · exact h

theorem keeps_passLink {o : RingOwner} {k : Prog} (h : k.Keeps I) : (passLink o k).Keeps I := by
  refine keeps_getRing fun b => keeps_readBitsAt hI fun v => ?_
  split
  · exact keeps_getCso fun c => keeps_advance hI (keeps_update (fun _ => keeps_flipCso hI o) h)
  · exact h

theorem keeps_allocBuffers {k : List Addr → Prog} (h : ∀ bs, (k bs).Keeps I) :
    ∀ n acc, (allocBuffers n acc k).Keeps I
  | 0, acc => h acc
  | n + 1, _ => keeps_allocate hI ⟨rfl, rfl⟩ fun _ => keeps_allocBuffers h n _

theorem keeps_storeBuffers {l : Layout} {base : Addr} {len : BitVec 17} {k : Prog} (h : k.Keeps I) :
    ∀ i bs, (storeBuffers l base len i bs k).Keeps I
  | _, [] => h
  | i, _ :: bs => keeps_storeTrb hI (keeps_storeBuffers h (i + 1) bs)

theorem keeps_fillLoop {j : Nat} {k : Prog} (h : k.Keeps I) : ∀ n, (fillLoop j n k).Keeps I
  | 0 => h
  | n + 1 => by
    refine keeps_getTransfer fun t => ?_
    split
    · exact h
    · exact keeps_advance hI (keeps_passLink hI (keeps_fillLoop h n))

theorem keeps_ringBell {reg : Nat} {w : Word32} : (ringBell reg w).Keeps I :=
  keeps_require (keeps_acquire hI (keeps_writeWord hI (keeps_release hI trivial)))

theorem keeps_getRegion {a : AllocRef} {k : Addr → Nat → Prog} (h : ∀ p n, (k p n).Keeps I) :
    (getRegion a k).Keeps I := by
  cases a with
  | pinned j =>
    refine keeps_ask (fun s s' v e => by split at e <;> cases e; rfl) fun _ => ?_
    exact keeps_ask (fun s s' v e => by split at e <;> cases e; rfl) fun _ => h _ _
  | ring r => exact keeps_lockRing hI (keeps_getRing fun b => keeps_unlockRing hI (h _ _))
  | buffer j i =>
    refine keeps_acquire hI (keeps_getTransfer fun t => ?_)
    split
    · exact keeps_release hI (h _ _)
    · trivial
  | dcbaa => exact keeps_ask (fun s s' v e => by split at e <;> cases e; rfl) fun _ => h _ _

/-! ### Every operation -/

theorem keeps_lengthOf {l : Layout} {f : LengthField} {w : Word64} {k : Word64 → Prog} (h : ∀ v, (k v).Keeps I) :
    (lengthOf l f w k).Keeps I := by
  cases f with
  | event => exact h _
  | transfer => exact h _
  | unstated => exact keeps_drawWord hI h

theorem keeps_pinnedNew {k size align : Nat} {shared : Bool} : (progPinnedNew k size align shared).Keeps I :=
  keeps_needs (keeps_require (keeps_allocate hI (kind := .other) trivial fun p =>
    keeps_update (fun s => hI.installPinned s k p size) keeps_ret))

theorem keeps_transferLength {l : Layout} {t : TrbSrc} : (progTransferLength l t).Keeps I := by
  cases t with
  | value v => exact keeps_lengthOf hI fun _ => keeps_ret
  | slot r i =>
    dsimp only [progTransferLength]
    refine keeps_atSlot hI fun _ => keeps_readBitsAt hI fun _ => keeps_readWord hI fun _ => ?_
    exact keeps_lengthOf hI fun _ => keeps_unlockRing hI keeps_ret

theorem keeps_current {c : Inspected} : (progCurrent c).Keeps I := by
  cases c with
  | slot r => exact keeps_lockRing hI (keeps_getRing fun b => keeps_unlockRing hI keeps_ret)
  | dequeue k => exact keeps_acquire hI (keeps_getTransfer fun t => keeps_release hI keeps_ret)
  | flag k => exact keeps_acquire hI (keeps_getTransfer fun t => keeps_release hI keeps_ret)

/-- What each access keeps, every operation keeps. -/
theorem progOf_keeps (l : Layout) (i : Instr) : (progOf l i).Keeps I := by
  cases i <;>
    dsimp only [progOf, recordProg, progRead, progWrite, progReadBits, progWriteBits, progNormalTrbNew, progTrbLink,
      progSetupStageTrbNew, progDataStageTrbNew, progStatusStageTrbNew, progCommandTrbNew, progCycleBitState,
      progSetCycleState, progTrbType, progSlotId, progData, progToggleCycle, progCompletionCode, progClassify,
      progStore, progLoad, progTrbRingNew, progSlot, progSlotAddr, progAdvanceIndex, progAdvanceIndexNotoggle,
      progTrbRingReset, progTrbRingPhysAddr, progSetLinkTrb, progSkipLink, progCommandRingNew,
      progCommandRingReset, progCommandRingPhysAddr, progCrcrValue, progPush, progTransferRingNew, progFillRing,
      progDequeueTrb, progEventRingReset, progHasEvent, progPop, progMaxDeviceSlots, progMaxInterrupters, progMaxPorts,
      progMaxScratchpadBuffers, progIsHalted, progResetXhc, progStartXhc, progSetDcbaaPtr, progSetCmdRingCtrl,
      progSetNumDeviceSlots, progNotify, progDbword, progCrcrword, progDcbaaent, progPinnedPhysAddr, progGetUncheckedMut,
      progDcbaaNew, progDcbaaSetEntry, progDcbaaEntry, storeLink] <;>
    repeat' with_reducible first
      | exact keeps_ret
      | exact keeps_fatal
      | exact keeps_ringBell hI
      | exact keeps_pinnedNew hI
      | exact keeps_transferLength hI
      | exact keeps_current hI
      | assumption
      | intro _
      | apply keeps_needs
      | apply keeps_require
      | apply keeps_precise
      | apply keeps_withWord
      | apply keeps_getRing
      | apply keeps_getCso
      | apply keeps_getEventCso
      | apply keeps_getTransfer
      | apply keeps_getParams
      | apply keeps_getDcbaa
      | apply keeps_lockRing hI
      | apply keeps_unlockRing hI
      | apply keeps_acquire hI
      | apply keeps_release hI
      | apply keeps_atSlot hI
      | apply keeps_ofTrb hI
      | apply keeps_controlField hI
      | apply keeps_readBitsAt hI
      | apply keeps_writeBitsAt hI
      | apply keeps_readWord hI
      | apply keeps_writeWord hI
      | apply keeps_await hI
      | apply keeps_storeTrb hI
      | apply keeps_loadTrb hI
      | apply keeps_advance hI
      | apply keeps_advanceNotoggle hI
      | apply keeps_passLink hI
      | apply keeps_resetRing hI
      | apply keeps_fillLoop hI
      | apply keeps_allocBuffers hI
      | apply keeps_storeBuffers hI
      | apply keeps_getRegion hI
      | apply keeps_allocate hI
      | apply keeps_update
      | apply hI.installRing
      | apply hI.installCommandRing
      | apply hI.installTransferRing
      | apply hI.installDcbaa
      | apply hI.cso
      | apply hI.eventCso
      | apply keeps_flipEventCso hI
      | apply hI.restart
      | apply hI.deq
      | exact And.intro rfl rfl
      | split
  all_goals
    first
    | exact ⟨rfl, rfl⟩
    | (rename_i h _; exact h _)

end

end Sys2Proof.Machine
end

