-- ==== Sys2Proof/Laws/Layout.lean ====
section
/-! SUPPORT. What a layout's type codes stand for (R103, R108, D3): at the values of R108 a code is its own number, and
at every layout whose codes are in order number and code determine each other. -/

namespace Sys2Proof

/-! ### The layout of R108 -/

@[simp] theorem Layout.standard_codeOf (kind : BitVec 6) : Layout.standard.codeOf kind = kind := by
  revert kind
  decide

@[simp] theorem Layout.standard_kindOf (code : BitVec 6) : Layout.standard.kindOf code = code := by
  revert code
  decide

theorem Layout.standard_codesOk : Layout.standard.codesOk = true := by decide

/-! ### Every layout -/

theorem Layout.codesOk_length {l : Layout} (h : l.codesOk = true) : l.typeCodes.length = 64 := by
  simp only [Layout.codesOk, Bool.and_eq_true, decide_eq_true_eq] at h
  exact h.1.1

theorem Layout.codesOk_nodup {l : Layout} (h : l.codesOk = true) : l.typeCodes.Nodup := by
  simp only [Layout.codesOk, Bool.and_eq_true, decide_eq_true_eq] at h
  exact h.1.2

/-- Every code is some record type's: 64 codes, none twice. -/
theorem Layout.codesOk_mem {l : Layout} (h : l.codesOk = true) (c : BitVec 6) : c ∈ l.typeCodes := by
  have hn := l.codesOk_nodup h
  have e : Fintype.card (Fin 64) = 64 := rfl
  have hi : Function.Injective fun x : { a // a ∈ l.typeCodes.toFinset } => x.val.toFin :=
    fun x y hxy => Subtype.ext (BitVec.eq_of_toFin_eq hxy)
  have hc : Fintype.card { a // a ∈ l.typeCodes.toFinset } = Fintype.card (Fin 64) := by
    rw [Fintype.card_coe, List.toFinset_card_of_nodup hn, l.codesOk_length h, e]
  obtain ⟨x, hx⟩ := ((Fintype.bijective_iff_injective_and_card _).2 ⟨hi, hc⟩).2 c.toFin
  have : x.val = c := BitVec.eq_of_toFin_eq hx
  exact this ▸ List.mem_toFinset.1 x.2

/-- The code of the record type a code stands for is that code. -/
theorem Layout.codeOf_kindOf {l : Layout} (h : l.codesOk = true) (c : BitVec 6) : l.codeOf (l.kindOf c) = c := by
  have hm := l.codesOk_mem h c
  have hl : l.typeCodes.idxOf c < l.typeCodes.length := List.idxOf_lt_length_of_mem hm
  have h64 := l.codesOk_length h
  have e : (BitVec.ofNat 6 (l.typeCodes.idxOf c)).toNat = l.typeCodes.idxOf c := by
    rw [BitVec.toNat_ofNat]
    omega
  unfold Layout.codeOf Layout.kindOf
  rw [e, List.getD_eq_getElem _ _ hl, List.getElem_idxOf]

/-- The record type of a record type's code is that record type. -/
theorem Layout.kindOf_codeOf {l : Layout} (h : l.codesOk = true) (k : BitVec 6) : l.kindOf (l.codeOf k) = k := by
  have h64 := l.codesOk_length h
  have hk : k.toNat < l.typeCodes.length := by
    have := k.isLt
    omega
  unfold Layout.codeOf Layout.kindOf
  rw [List.getD_eq_getElem _ _ hk, (l.codesOk_nodup h).idxOf_getElem]
  exact BitVec.eq_of_toNat_eq (by rw [BitVec.toNat_ofNat]; exact Nat.mod_eq_of_lt k.isLt)

end Sys2Proof

namespace Sys2Proof.Machine

open Sys2Proof

/-! ### Fields of a word -/

/-- A field of a word is the bits it spans. -/
theorem readField_eq (f : Span) (v : Word64) : readField f v = (v.extractLsb' f.shift f.width).setWidth 64 := by
  refine BitVec.eq_of_toNat_eq ?_
  unfold readField readSpan maskOf
  rw [BitVec.toNat_and, BitVec.toNat_ushiftRight, BitVec.toNat_ofNat, BitVec.toNat_setWidth, BitVec.extractLsb'_toNat]
  have hv : v.toNat >>> f.shift < 2 ^ 64 := lt_of_le_of_lt (Nat.shiftRight_le _ _) v.isLt
  rcases Nat.lt_or_ge f.width 64 with h | h
  · have hp : 2 ^ f.width < 2 ^ 64 := Nat.pow_lt_pow_right (by decide) h
    rw [Nat.mod_eq_of_lt (by omega), Nat.and_two_pow_sub_one_eq_mod,
      Nat.mod_eq_of_lt (a := _ % 2 ^ f.width) (lt_of_le_of_lt (Nat.mod_le _ _) hv)]
  · have hp : 2 ^ 64 ∣ 2 ^ f.width := Nat.pow_dvd_pow 2 h
    have hm : (2 ^ f.width - 1) % 2 ^ 64 = 2 ^ 64 - 1 := by
      obtain ⟨q, hq⟩ := hp
      have : 0 < 2 ^ f.width := Nat.two_pow_pos _
      rcases q with _ | q
      · omega
      · rw [hq, Nat.mul_succ]
        omega
    rw [hm, Nat.and_two_pow_sub_one_eq_mod, Nat.mod_eq_of_lt hv,
      Nat.mod_eq_of_lt (lt_of_lt_of_le hv (Nat.pow_le_pow_right (by decide) h)), Nat.mod_eq_of_lt hv]

/-- The same of a 32-bit word. -/
theorem readField_setWidth (f : Span) (v : Word32) (h : f.shift + f.width ≤ 32) :
    readField f (v.setWidth 64) = (v.extractLsb' f.shift f.width).setWidth 64 := by
  rw [readField_eq]
  refine BitVec.eq_of_getLsbD_eq fun i hi => ?_
  simp only [BitVec.getLsbD_setWidth, BitVec.getLsbD_extractLsb']
  by_cases hw : i < f.width
  · have : f.shift + i < 64 := by omega
    simp [hw, hi, this]
  · simp [hw]

/-- The bits of a word that has one field. -/
theorem putField_getLsbD (f : Span) (v : Word64) (i : Nat) :
    (putField f v).getLsbD i = (decide (i < 64 ∧ f.shift ≤ i ∧ i < f.shift + f.width) && v.getLsbD (i - f.shift)) := by
  have hm : ∀ j, (maskOf f.width).getLsbD j = decide (j < 64 ∧ j < f.width) := fun j => by
    unfold maskOf
    rw [BitVec.getLsbD_ofNat, Nat.testBit_two_pow_sub_one]
    by_cases h1 : j < 64 <;> by_cases h2 : j < f.width <;> simp [h1, h2]
  unfold putField
  rw [BitVec.getLsbD_shiftLeft, BitVec.getLsbD_and, hm]
  by_cases h1 : i < 64
  · by_cases h2 : i < f.shift
    · have h3 : ¬f.shift ≤ i := by omega
      simp [h2, h3]
    · have h3 : f.shift ≤ i := by omega
      have h4 : i - f.shift < 64 := by omega
      have h5 : i - f.shift < f.width ↔ i < f.shift + f.width := by omega
      simp [h1, h2, h3, h4, h5, Bool.and_comm]
  · simp [h1]

/-- A value that is as wide as a field at the low end of a word. -/
theorem putField_low_setWidth {f : Span} {w : Nat} (hs : f.shift = 0) (hw : w ≤ f.width) (v : BitVec w) :
    (putField f (v.setWidth 64)).setWidth 32 = v.setWidth 32 := by
  refine BitVec.eq_of_getLsbD_eq fun i hi => ?_
  rw [BitVec.getLsbD_setWidth, putField_getLsbD, BitVec.getLsbD_setWidth, BitVec.getLsbD_setWidth, hs]
  by_cases hv : i < w
  · have h1 : i < 64 := by omega
    have h2 : i < f.width := by omega
    simp [hi, h1, h2]
  · simp [BitVec.getLsbD_of_ge v i (by omega)]

/-! ### Fields at the layout of R104 and R105 -/

@[simp] theorem classOf_standard (code : BitVec 6) : classOf .standard code = classOfKind code code := by
  unfold classOf
  rw [Layout.standard_kindOf]

@[simp] theorem presentIn_standard (kinds : List (BitVec 6)) (t : Trb) :
    presentIn .standard kinds t = kinds.contains (trbTypeOf t) := by
  unfold presentIn
  rw [Layout.standard_kindOf]

@[simp] theorem trbIsp_standard (t : Trb) :
    trbIsp .standard t = ([1, 3, 5].contains (trbTypeOf t) && t.control.getLsbD 2) := by
  rw [trbIsp, presentIn_standard]
  rfl

@[simp] theorem trbIoc_standard (t : Trb) :
    trbIoc .standard t = ([1, 2, 3, 4, 5, 6, 7, 8].contains (trbTypeOf t) && t.control.getLsbD 5) := by
  rw [trbIoc, presentIn_standard]
  rfl

@[simp] theorem trbIdt_standard (t : Trb) :
    trbIdt .standard t = ([1, 2, 3, 5].contains (trbTypeOf t) && t.control.getLsbD 6) := by
  rw [trbIdt, presentIn_standard]
  rfl

@[simp] theorem trbDir_standard (t : Trb) :
    trbDir .standard t = ([3, 4].contains (trbTypeOf t) && t.control.getLsbD 16) := by
  rw [trbDir, presentIn_standard]
  rfl

@[simp] theorem trbEndpoint_standard (t : Trb) :
    trbEndpoint .standard t = (t.control.extractLsb' 16 5).setWidth 64 := readField_setWidth _ _ (by decide)
@[simp] theorem trbCompletionCode_standard (t : Trb) :
    trbCompletionCode .standard t = (t.status.extractLsb' 24 8).setWidth 64 := readField_setWidth _ _ (by decide)
@[simp] theorem trbEventLength_standard (t : Trb) :
    trbEventLength .standard t = (t.status.extractLsb' 0 24).setWidth 64 := readField_setWidth _ _ (by decide)
@[simp] theorem trbTransferLength_standard (t : Trb) :
    trbTransferLength .standard t = (t.status.extractLsb' 0 17).setWidth 64 := readField_setWidth _ _ (by decide)
@[simp] theorem trbPortId_standard (t : Trb) :
    trbPortId .standard t = (t.param.extractLsb' 24 8).setWidth 64 := readField_eq _ _
@[simp] theorem eventOpaque_standard : eventOpaque .standard = 0x27E := by decide
@[simp] theorem runStop_standard (w : Word32) : runStop .standard w = w.getLsbD 0 := rfl
@[simp] theorem hcReset_standard (w : Word32) : hcReset .standard w = w.getLsbD 1 := rfl
@[simp] theorem halted_standard (w : Word32) : halted .standard w = w.getLsbD 0 := rfl

/-! ### The register blocks -/

/-- Where the platform has placed the blocks, the Operational base is 8-aligned and the Doorbell base 4-aligned (R76). -/
theorem blocksPlaced_aligned {s : State} (hl : s.cfg.layout = .standard) (h : blocksPlaced s = true) :
    opBase s % 8 = 0 ∧ dbBase s % 4 = 0 := by
  simp only [blocksPlaced, Bool.and_eq_true, decide_eq_true_eq, hl] at h
  have h1 : s.cfg.mmioBase.toNat % 8 = 0 := h.1.1.1.1.1
  have h2 : s.cap.caplength.toNat % 8 = 0 := h.1.1.1.2
  have h3 : Layout.standard.doorbellOffset = 2 := rfl
  constructor
  · unfold opBase
    omega
  · simp only [dbBase, hl, h3]
    omega

/-! ### The records at the layout of R104, R105, R109 and R111 -/

/-- R106. -/
theorem normalTrb_standard (buf : Addr) (len : BitVec 17) :
    normalTrb .standard buf len = { param := buf, status := len.setWidth 32, control := 0x424 } := by
  have e : (putField Layout.standard.transferLength (len.setWidth 64)).setWidth 32 = len.setWidth 32 :=
    putField_low_setWidth (f := Layout.standard.transferLength) rfl (by decide) len
  unfold normalTrb
  rw [e]
  rfl

end Sys2Proof.Machine
end

