-- ==== Sys2Proof/Laws/Run.lean ====
section
/-! SUPPORT. How an operation runs: one lemma per access and per shared operation, so that no proof unfolds them
again. `Comes p s q s'` says that operation `p`, in state `s`, comes to what is left of it, `q`, in state `s'`. -/

namespace Sys2Proof.Machine

open Sys2Proof

/-! ### The turn -/

/-- Whether IH still awaits its bit does not depend on the turns to come. -/
@[simp] theorem ihAwaits_withTurns (s : State) (ts : List Turn) : ihAwaits { s with turns := ts } = ihAwaits s := by
  unfold ihAwaits
  cases s.ih.current with
  | none => rfl
  | some op =>
    show op.awaits.any (fun a => a.unmet { s with turns := ts }) = op.awaits.any fun a => a.unmet s
    have h : ∀ a : Awaited, a.unmet { s with turns := ts } = a.unmet s := fun a => by
      unfold Awaited.unmet
      cases a.reg <;> rfl
    simp only [h]

/-- Nor does the agent that has the turn. -/
@[simp] theorem dispatch_withTurns (s : State) (ts : List Turn) :
    dispatch { s with turns := ts } = { dispatch s with turns := ts } := by
  simp only [dispatch, ihAwaits_withTurns]

/-- A CPU agent without a mark takes its turn. -/
theorem cpuTurn_of_unmarked {s : State} (hf : s.faulted = none) (hr : s.refused = none) (next : State → Action) :
    cpuTurn s next = next (dispatch s) := by
  unfold cpuTurn
  rw [hf, hr]

/-- What `p` does in `s` is to come to `q` in `s'` and to go on from there; and so does a look ahead. -/
def Comes (p : Prog) (s : State) (q : Prog) (s' : State) : Prop :=
  (∀ i as, ∃ as', run i p as s = run i q as' s') ∧ foresee p s = foresee q s'

namespace Comes

theorem refl (p : Prog) (s : State) : Comes p s p s := ⟨fun _ as => ⟨as, rfl⟩, rfl⟩

theorem trans {p q r : Prog} {s t u : State} (h : Comes p s q t) (h' : Comes q t r u) : Comes p s r u := by
  refine ⟨fun i as => ?_, h.2.trans h'.2⟩
  obtain ⟨as1, h1⟩ := h.1 i as
  obtain ⟨as2, h2⟩ := h'.1 i as1
  exact ⟨as2, h1.trans h2⟩

theorem of_done {m : State → Act} {k : Val → Prog} {s s' : State} {v : Val} (h : m s = .done s' v) :
    Comes (.act m k) s (k v) s' :=
  ⟨fun i as => ⟨as ++ [v], by simp [run, h]⟩, by simp [foresee, h]⟩

end Comes

/-! ### Ends of an operation -/

theorem guarded_unmarked {s : State} (h : s.faulted = none) (h' : s.refused = none) (t : State) :
    guarded s t = .next t := by simp [guarded, h, h']

/-- An unmarked state answers with the state its operation runs to. -/
theorem runOp_unmarked {s : State} (h : s.faulted = none) (h' : s.refused = none) (i : Instr) (p : Prog) :
    runOp i p s = .next (run i p [] s) := guarded_unmarked h h' _

/-- A marked state answers with its mark: the CPU agents have no further step (R300, R306). -/
theorem runOp_faulted {s : State} {c : FatalCode} (h : s.faulted = some c) (i : Instr) (p : Prog) :
    runOp i p s = .fault (.fatal c) := by simp [runOp, guarded, h]

theorem runOp_refused {s : State} {r : Refusal} (h : s.faulted = none) (h' : s.refused = some r) (i : Instr)
    (p : Prog) : runOp i p s = .refused r := by simp [runOp, guarded, h, h']

/-- An operation that comes to its result ends `ok`. -/
theorem runOp_ret {s s' : State} {p : Prog} {r : Result} (h : s.faulted = none) (h' : s.refused = none)
    (hp : Comes p s (.ret r) s') (i : Instr) : runOp i p s = .next (s'.finish r) := by
  obtain ⟨as', e⟩ := hp.1 i []
  rw [runOp_unmarked h h', e]
  rfl

theorem runOp_fatal {s s' : State} {p : Prog} {c : FatalCode} (h : s.faulted = none) (h' : s.refused = none)
    (hp : Comes p s (.fatal c) s') (i : Instr) : runOp i p s = .next (raiseFatal c s') := by
  obtain ⟨as', e⟩ := hp.1 i []
  rw [runOp_unmarked h h', e]
  rfl

theorem runOp_refuse {s s' : State} {p : Prog} {r : Refusal} (h : s.faulted = none) (h' : s.refused = none)
    (hp : Comes p s (.refuse r) s') (i : Instr) : runOp i p s = .next (raiseRefusal r s') := by
  obtain ⟨as', e⟩ := hp.1 i []
  rw [runOp_unmarked h h', e]
  rfl

/-! ### Private reads and updates -/

theorem comes_update (f : State → State) (k : Prog) (s : State) : Comes (update f k) s k (f s) :=
  Comes.of_done rfl

theorem comes_getRing {s : State} {r : RingId} {b : RingBuf} (h : s.ring? r = some b) (k : RingBuf → Prog) :
    Comes (getRing r k) s (k b) s :=
  Comes.of_done (v := .ring b) (by simp [h])

theorem comes_getCso {s : State} {o : RingOwner} {b : Bool} (h : s.cso? o = some b) (k : Bool → Prog) :
    Comes (getCso o k) s (k b) s :=
  Comes.of_done (v := .flag b) (by simp [h])

theorem comes_getTransfer {s : State} {j : Nat} {t : TransferRing} (h : s.transferRing? j = some t)
    (k : TransferRing → Prog) : Comes (getTransfer j k) s (k t) s :=
  Comes.of_done (v := .transfer t) (by simp [h])

theorem comes_getEventCso {s : State} {e : EventRing} (h : s.eventRing = some e) (k : Bool → Prog) :
    Comes (getEventCso k) s (k e.cso) s :=
  Comes.of_done (v := .flag e.cso) (by simp [h])

theorem comes_getDcbaa {s : State} {b : Addr} (h : s.dcbaa = some b) (k : Addr → Prog) :
    Comes (getDcbaa k) s (k b) s :=
  Comes.of_done (v := .word b) (by simp [h])

theorem comes_getParams (k : Params → Prog) (s : State) : Comes (getParams k) s (k s.cfg) s :=
  Comes.of_done (v := .params s.cfg) rfl

theorem comes_drawWord (k : Word64 → Prog) (s : State) : Comes (drawWord k) s (k s.draw.1) s.draw.2 :=
  Comes.of_done (v := .word s.draw.1) rfl

theorem comes_require {s : State} {c : State → Bool} (h : c s = true) (why : Refusal) (k : Prog) :
    Comes (require c why k) s k s :=
  Comes.of_done (v := .unit) (by simp [h])

theorem comes_needs {ok : Bool} (h : ok = true) (why : Refusal) (k : Prog) (s : State) :
    Comes (needs ok why k) s k s := by
  rw [needs, if_pos h]
  exact Comes.refl k s

theorem comes_withWord {s : State} {w : WordRef} {u : Use} {l : Loc} (h : resolve s u w = .ok l) (k : Loc → Prog) :
    Comes (withWord w u k) s (k l) s :=
  Comes.of_done (v := .loc l) (by simp [h])

/-! ### Looking ahead (R300, log 37) -/

/-- An operation that comes to its result, or to a hold or a refusal, goes on as without the look ahead. -/
theorem comes_precise {p q : Prog} {s t : State} (h : Comes p s q t) (hq : foresee q t = none) :
    Comes (precise p) s q t :=
  (Comes.of_done (v := .unit) (by simp [h.2, hq])).trans h

/-- An operation that comes to a fatal raises it before it does anything. -/
theorem run_precise_fatal {p : Prog} {s t : State} {c : FatalCode} (h : Comes p s (.fatal c) t) (i : Instr)
    (as : List Val) : run i (precise p) as s = raiseFatal c s := by
  have e : foresee p s = some c := h.2
  simp [precise, run, e]

/-- What runs without a fatal foreseen raises none; and a fatal foreseen is the one raised. -/
theorem run_foresee (i : Instr) : ∀ (p : Prog) (as : List Val) (s : State),
    p.Keeps (fun t => t.faulted = none) → s.faulted = none → (run i p as s).faulted = foresee p s
  | .ret _, _, _, _, h => h
  | .fatal _, _, _, _, _ => rfl
  | .refuse _, _, _, _, h => h
  | .act m k, as, s, hp, h => by
    rw [run, foresee]
    cases e : m s with
    | done s' v => exact run_foresee i (k v) _ s' (hp.2 v) (hp.1 s s' v h e)
    | hold on => exact h
    | refuse r => exact h
    | fatal c => rfl

/-! ### Locks (R85) -/

theorem comes_acquire {s : State} {l : LockId} (h : s.lock? l = some .free) (k : Prog) :
    Comes (acquire l k) s k (s.setLock l (.held s.agent)) :=
  Comes.of_done (v := .unit) (by simp [h])

theorem comes_release (l : LockId) (k : Prog) (s : State) : Comes (release l k) s k (s.setLock l .free) :=
  Comes.of_done (v := .unit) rfl

/-- An agent that meets a held lock has no step (R85). -/
theorem run_acquire_held {s : State} {l : LockId} {a : CpuAgent} (h : s.lock? l = some (.held a)) (k : Prog)
    (i : Instr) (as : List Val) : run i (acquire l k) as s = s.suspend i as none := by
  simp [acquire, run, h]

/-! ### Accesses to DMA-visible memory -/

theorem comes_readOnce_dma (a : Addr) (n : Nat) (k : Word64 → Prog) (s : State) :
    Comes (readOnce (.dma a) n k) s (k (s.mem.readWord a n)) (s.log .read (.dma a) n (s.mem.readWord a n)) :=
  Comes.of_done (v := .word (s.mem.readWord a n)) rfl

theorem comes_writeOnce_dma (a : Addr) (n : Nat) (v : Word64) (k : Prog) (s : State) :
    Comes (writeOnce (.dma a) n v k) s k
      (({ s with mem := s.mem.writeWord a n v } : State).log .write (.dma a) n (v &&& maskOf (8 * n))) :=
  Comes.of_done (v := .unit) rfl

theorem comes_askSplit (k : Bool → Prog) (s : State) : Comes (askSplit k) s (k s.cfg.split64) s :=
  Comes.of_done (v := .flag s.cfg.split64) rfl

theorem Memory.writeBytes_append (m : Memory) (a : Nat) (xs ys : List Byte) :
    m.writeBytes a (xs ++ ys) = (m.writeBytes a xs).writeBytes (a + xs.length) ys := by
  induction xs generalizing m a with
  | nil => rfl
  | cons x xs ih =>
    rw [List.cons_append, Memory.writeBytes, ih, Memory.writeBytes, List.length_cons]
    congr 1
    omega

theorem bytesOf_halves (v : Word64) : bytesOf 8 v = bytesOf 4 (loWord v) ++ bytesOf 4 (hiWord v) := by
  have e (i : Nat) (hi : i < 4) : v.extractLsb' (8 * i) 8 = (loWord v).extractLsb' (8 * i) 8 := by
    apply BitVec.eq_of_getLsbD_eq
    intro j hj
    simp only [loWord, BitVec.getLsbD_extractLsb', BitVec.getLsbD_and]
    interval_cases i <;> interval_cases j <;> simp
  have e' (i : Nat) (hi : i < 4) : v.extractLsb' (8 * (4 + i)) 8 = (hiWord v).extractLsb' (8 * i) 8 := by
    apply BitVec.eq_of_getLsbD_eq
    intro j hj
    simp only [hiWord, BitVec.getLsbD_extractLsb', BitVec.getLsbD_ushiftRight]
    congr 2
    omega
  change [_, _, _, _, _, _, _, _] = [_, _, _, _, _, _, _, _]
  simp only [List.cons.injEq, and_true]
  exact ⟨e 0 (by omega), e 1 (by omega), e 2 (by omega), e 3 (by omega), e' 0 (by omega), e' 1 (by omega),
    e' 2 (by omega), e' 3 (by omega)⟩

theorem toNat_add_four {a : Addr} (h : a.toNat + 8 ≤ 2 ^ 64) : (a + 4).toNat = a.toNat + 4 := by
  rw [BitVec.toNat_add]
  have : (4 : Addr).toNat = 4 := rfl
  omega

/-- An 8-byte store is the store of its two halves (R75, R91). -/
theorem Memory.writeWord_halves (m : Memory) {a : Addr} (h : a.toNat + 8 ≤ 2 ^ 64) (v : Word64) :
    (m.writeWord a 4 (loWord v)).writeWord (a + 4) 4 (hiWord v) = m.writeWord a 8 v := by
  unfold Memory.writeWord
  rw [bytesOf_halves v, Memory.writeBytes_append, toNat_add_four h, bytesOf_length]

/-- An 8-byte word is its two halves (R75). -/
theorem Memory.readWord_halves (m : Memory) {a : Addr} (h : a.toNat + 8 ≤ 2 ^ 64) :
    joinWords (m.readWord a 4) (m.readWord (a + 4) 4) = m.readWord a 8 := by
  have e (b : Addr) (n : Nat) : m.readWord b n = wordOf ((List.range n).map fun i => m.read (b.toNat + i)) := rfl
  rw [e, e, e, toNat_add_four h]
  generalize m.read = f
  change joinWords (wordOf [_, _, _, _]) (wordOf [_, _, _, _]) = wordOf [_, _, _, _, _, _, _, _]
  simp only [Nat.add_assoc, Nat.reduceAdd, Nat.add_zero]
  apply BitVec.eq_of_getLsbD_eq
  intro i hi
  simp only [joinWords, loWord, wordOf, BitVec.getLsbD_or, BitVec.getLsbD_shiftLeft, BitVec.getLsbD_setWidth,
    BitVec.getLsbD_and]
  interval_cases i <;> simp

/-- A read of a word in memory: its value, and nothing changed but the record of accesses. -/
theorem comes_readWord_dma {a : Addr} {n : Nat} (h : n = 8 → a.toNat + 8 ≤ 2 ^ 64) (k : Word64 → Prog) (s : State) :
    ∃ tr, Comes (readWord (.dma a) n k) s (k (s.mem.readWord a n)) { s with trace := tr } := by
  unfold readWord
  by_cases hn : n = 8
  · subst hn
    rw [if_pos rfl]
    cases hs : s.cfg.split64
    · refine ⟨_, ((comes_askSplit _ s).trans ?_).trans (comes_readOnce_dma a 8 k s)⟩
      rw [hs]
      exact Comes.refl _ s
    · have e := Memory.readWord_halves s.mem (h rfl)
      have h2 := (comes_readOnce_dma a 4 (fun lo => readOnce (.dma (a + 4)) 4 fun hi => k (joinWords lo hi)) s).trans
        (comes_readOnce_dma (a + 4) 4 _ _)
      have h1 := comes_askSplit
        (fun split =>
          if split then readOnce (.dma a) 4 fun lo => readOnce (.dma (a + 4)) 4 fun hi => k (joinWords lo hi)
          else readOnce (.dma a) 8 k) s
      rw [hs, if_pos rfl] at h1
      rw [← e]
      exact ⟨_, h1.trans h2⟩
  · rw [if_neg hn]
    exact ⟨_, comes_readOnce_dma a n k s⟩

/-- A write of a word in memory: its bytes, and nothing else but the record of accesses. -/
theorem comes_writeWord_dma {a : Addr} {n : Nat} (h : n = 8 → a.toNat + 8 ≤ 2 ^ 64) (v : Word64) (k : Prog)
    (s : State) :
    ∃ tr, Comes (writeWord (.dma a) n v k) s k { s with mem := s.mem.writeWord a n v, trace := tr } := by
  unfold writeWord
  by_cases hn : n = 8
  · subst hn
    rw [if_pos rfl]
    cases hs : s.cfg.split64
    · refine ⟨_, ((comes_askSplit _ s).trans ?_).trans (comes_writeOnce_dma a 8 v k s)⟩
      rw [hs]
      exact Comes.refl _ s
    · have e := Memory.writeWord_halves s.mem (h rfl) v
      have h2 := (comes_writeOnce_dma a 4 (loWord v) (writeOnce (.dma (a + 4)) 4 (hiWord v) k) s).trans
        (comes_writeOnce_dma (a + 4) 4 _ k _)
      have h1 := comes_askSplit
        (fun split =>
          if split then writeOnce (.dma a) 4 (loWord v) (writeOnce (.dma (a + 4)) 4 (hiWord v) k)
          else writeOnce (.dma a) 8 v k) s
      rw [hs, if_pos rfl] at h1
      rw [← e]
      exact ⟨_, h1.trans h2⟩
  · rw [if_neg hn]
    exact ⟨_, comes_writeOnce_dma a n v k s⟩

/-- `read_bits` of a word in memory (R143). -/
theorem comes_readBitsAt_dma {a : Addr} {n shift width : Nat} (h : n = 8 → a.toNat + 8 ≤ 2 ^ 64)
    (hb : shift + width ≤ 8 * n) (k : Word64 → Prog) (s : State) :
    ∃ tr, Comes (readBitsAt (.dma a) n shift width k) s (k (readSpan shift width (s.mem.readWord a n)))
      { s with trace := tr } := by
  unfold readBitsAt
  rw [if_neg (by omega)]
  exact comes_readWord_dma h _ s

/-- `write_bits` of a word in memory (R144). -/
theorem comes_writeBitsAt_dma {a : Addr} {n shift width : Nat} (h : n = 8 → a.toNat + 8 ≤ 2 ^ 64)
    (hb : shift + width ≤ 8 * n) (v : Word64) (k : Prog) (s : State) :
    ∃ tr, Comes (writeBitsAt (.dma a) n shift width v k) s k
      { s with
        mem := s.mem.writeWord a n (writeSpan (8 * n) shift width (s.mem.readWord a n) v)
        trace := tr } := by
  unfold writeBitsAt
  rw [if_neg (by omega)]
  obtain ⟨tr, h1⟩ :=
    comes_readWord_dma h
      (fun old => writeWord (.dma a) n (writeSpan (8 * n) shift width old v) k) s
  obtain ⟨tr', h2⟩ :=
    comes_writeWord_dma h (writeSpan (8 * n) shift width (s.mem.readWord a n) v) k { s with trace := tr }
  exact ⟨tr', h1.trans h2⟩

end Sys2Proof.Machine
end

