-- ==== Sys2Proof/Laws/Slots.lean ====
section
/-! SUPPORT. Slots of a ring in memory: their addresses, what writing a cycle bit or a record does to each of them,
and the ring procedures that do so, said once. -/

namespace Sys2Proof.Machine

open Sys2Proof

/-! ### Addresses -/

theorem slotAt_toNat {base : Addr} (h : base.toNat + 256 ≤ 2 ^ 64) {i : Nat} (hi : i < 16) :
    (slotAt base i).toNat = base.toNat + 16 * i := by
  unfold slotAt Config.trbSize
  rw [BitVec.toNat_add, BitVec.toNat_ofNat]
  omega

theorem controlAt_toNat {base : Addr} (h : base.toNat + 256 ≤ 2 ^ 64) {i : Nat} (hi : i < 16) :
    (controlAt base i).toNat = base.toNat + 16 * i + 12 := by
  unfold controlAt
  rw [BitVec.toNat_add, slotAt_toNat h hi]
  have : (12 : Addr).toNat = 12 := rfl
  omega

theorem slotAt_add_eight_toNat {base : Addr} (h : base.toNat + 256 ≤ 2 ^ 64) {i : Nat} (hi : i < 16) :
    (slotAt base i + 8).toNat = base.toNat + 16 * i + 8 := by
  rw [BitVec.toNat_add, slotAt_toNat h hi]
  have : (8 : Addr).toNat = 8 := rfl
  omega

theorem slotAt_add_twelve_toNat {base : Addr} (h : base.toNat + 256 ≤ 2 ^ 64) {i : Nat} (hi : i < 16) :
    (slotAt base i + 12).toNat = base.toNat + 16 * i + 12 := controlAt_toNat h hi

/-! ### Words of 4 bytes -/

/-- A word of 4 bytes has no bit above 31. -/
theorem Memory.readWord_four_mask (m : Memory) (a : Addr) :
    ((m.readWord a 4).setWidth 32 : Word32).setWidth 64 = m.readWord a 4 := by
  have e : m.readWord a 4 = wordOf [m.read (a.toNat + 0), m.read (a.toNat + 1), m.read (a.toNat + 2),
    m.read (a.toNat + 3)] := rfl
  rw [e]
  apply BitVec.eq_of_getLsbD_eq
  intro i hi
  simp only [wordOf, BitVec.getLsbD_or, BitVec.getLsbD_shiftLeft, BitVec.getLsbD_setWidth]
  interval_cases i <;> simp

theorem setWidth_and_mask (w : Word32) : (w.setWidth 64 : Word64) &&& 0xFFFFFFFF#64 = w.setWidth 64 := by
  apply BitVec.eq_of_getLsbD_eq
  intro i hi
  simp only [BitVec.getLsbD_and, BitVec.getLsbD_setWidth]
  by_cases h : i < 32
  · interval_cases i <;> simp
  · rw [BitVec.getLsbD_of_ge w i (by omega)]
    simp

theorem setWidth_setWidth_32 (w : Word32) : ((w.setWidth 64 : Word64).setWidth 32 : Word32) = w := by
  apply BitVec.eq_of_getLsbD_eq
  intro i hi
  simp only [BitVec.getLsbD_setWidth]
  simp [hi, show i < 64 by omega]

/-- Writing a 32-bit word and reading it back. -/
theorem Memory.readWord_writeWord_32 {m : Memory} (h : m.wf = true) (a : Addr) (w : Word32) :
    ((m.writeWord a 4 (w.setWidth 64)).readWord a 4).setWidth 32 = w := by
  rw [Memory.readWord_writeWord_same h, wordOf_bytesOf_four, setWidth_and_mask, setWidth_setWidth_32]

theorem Memory.readWord_writeWord_64 {m : Memory} (h : m.wf = true) (a : Addr) (w : Word64) :
    (m.writeWord a 8 w).readWord a 8 = w := by
  rw [Memory.readWord_writeWord_same h, wordOf_bytesOf_eight]

/-! ### The cycle bit (R165) -/

theorem trbCycle_withCycle (t : Trb) (c : Word32) (b : Bool) : trbCycle { t with control := withCycle c b } = b := by
  unfold trbCycle withCycle
  simp only [BitVec.getLsbD_or, BitVec.getLsbD_and, BitVec.getLsbD_not, BitVec.getLsbD_setWidth]
  cases b <;> simp

/-- `write_bits(0, 1, b)` on a control word sets its cycle bit and nothing else. -/
theorem writeSpan_cycle (c : Word32) (b : Bool) :
    writeSpan (8 * 4) 0 1 (c.setWidth 64) (bit b) = (withCycle c b).setWidth 64 := by
  unfold writeSpan maskOf withCycle bit
  apply BitVec.eq_of_getLsbD_eq
  intro i hi
  simp only [BitVec.getLsbD_or, BitVec.getLsbD_and, BitVec.getLsbD_not, BitVec.getLsbD_setWidth,
    BitVec.getLsbD_shiftLeft]
  rcases Nat.lt_or_ge i 32 with h | h
  · cases b <;> interval_cases i <;> simp
  · rw [BitVec.getLsbD_of_ge c i h]
    cases b <;> interval_cases i <;> simp

theorem readSpan_cycle (c : Word32) : (readSpan 0 1 (c.setWidth 64)).getLsbD 0 = c.getLsbD 0 := by
  unfold readSpan maskOf
  simp

theorem readSpan_type (c : Word32) : readSpan 10 6 (c.setWidth 64) = (typeField c).setWidth 64 := by
  unfold readSpan maskOf typeField
  apply BitVec.eq_of_getLsbD_eq
  intro i hi
  simp only [BitVec.getLsbD_and, BitVec.getLsbD_ushiftRight, BitVec.getLsbD_setWidth, BitVec.getLsbD_extractLsb']
  rcases Nat.lt_or_ge i 6 with h | h
  · interval_cases i <;> simp
  · interval_cases i <;> simp

/-! ### What writing into slot `i` does to slot `j` -/

/-- The memory after the cycle bit of slot `i` is set to `b`. -/
def putCycle (m : Memory) (base : Addr) (i : Nat) (b : Bool) : Memory :=
  m.writeWord (controlAt base i) 4 ((withCycle (slotTrb m base i).control b).setWidth 64)

/-- The memory after a record is stored at `a` (R176). -/
def putTrb (m : Memory) (a : Addr) (t : Trb) : Memory :=
  ((m.writeWord a 8 t.param).writeWord (a + 8) 4 (t.status.setWidth 64)).writeWord (a + 12) 4
    (t.control.setWidth 64)

theorem putCycle_wf {m : Memory} (h : m.wf = true) (base : Addr) (i : Nat) (b : Bool) :
    (putCycle m base i b).wf = true :=
  Memory.writeWord_wf h _ _ _

theorem putTrb_wf {m : Memory} (h : m.wf = true) (a : Addr) (t : Trb) : (putTrb m a t).wf = true :=
  Memory.writeWord_wf (Memory.writeWord_wf (Memory.writeWord_wf h _ _ _) _ _ _) _ _ _

/-- A record away from the bytes written reads as before. -/
theorem readTrb_writeWord_apart {m : Memory} (h : m.wf = true) {a b : Addr} {k : Nat} (v : Word64)
    (ha : a.toNat + 16 ≤ 2 ^ 64) (hd : a.toNat + 16 ≤ b.toNat ∨ b.toNat + k ≤ a.toNat) :
    (m.writeWord b k v).readTrb a = m.readTrb a := by
  have e8 : (a + 8).toNat = a.toNat + 8 := by
    rw [BitVec.toNat_add]; have : (8 : Addr).toNat = 8 := rfl; omega
  have e12 : (a + 12).toNat = a.toNat + 12 := by
    rw [BitVec.toNat_add]; have : (12 : Addr).toNat = 12 := rfl; omega
  unfold Memory.readTrb
  rw [Memory.readWord_writeWord_apart h _ _ _ _ _ (by omega), Memory.readWord_writeWord_apart h _ _ _ _ _ (by omega),
    Memory.readWord_writeWord_apart h _ _ _ _ _ (by omega)]

theorem readTrb_writeControl {m : Memory} (h : m.wf = true) {a : Addr} (ha : a.toNat + 16 ≤ 2 ^ 64) (c : Word32) :
    (m.writeWord (a + 12) 4 (c.setWidth 64)).readTrb a = { m.readTrb a with control := c } := by
  have e8 : (a + 8).toNat = a.toNat + 8 := by
    rw [BitVec.toNat_add]; have : (8 : Addr).toNat = 8 := rfl; omega
  have e12 : (a + 12).toNat = a.toNat + 12 := by
    rw [BitVec.toNat_add]; have : (12 : Addr).toNat = 12 := rfl; omega
  unfold Memory.readTrb
  rw [Memory.readWord_writeWord_apart h _ _ _ _ _ (by omega), Memory.readWord_writeWord_apart h _ _ _ _ _ (by omega),
    Memory.readWord_writeWord_32 h]

/-- A record stored at `a` reads back from there (R126). -/
theorem readTrb_putTrb {m : Memory} (h : m.wf = true) {a : Addr} (ha : a.toNat + 16 ≤ 2 ^ 64) (t : Trb) :
    (putTrb m a t).readTrb a = t := by
  have e8 : (a + 8).toNat = a.toNat + 8 := by
    rw [BitVec.toNat_add]; have : (8 : Addr).toNat = 8 := rfl; omega
  have h1 := Memory.writeWord_wf h a 8 t.param
  have h2 := Memory.writeWord_wf h1 (a + 8) 4 (t.status.setWidth 64)
  unfold putTrb
  rw [readTrb_writeControl h2 ha]
  unfold Memory.readTrb
  rw [Memory.readWord_writeWord_apart h1 _ _ _ _ _ (by omega), Memory.readWord_writeWord_64 h,
    Memory.readWord_writeWord_32 h1]

theorem readTrb_putTrb_apart {m : Memory} (h : m.wf = true) {a b : Addr} (ha : a.toNat + 16 ≤ 2 ^ 64)
    (hb : b.toNat + 16 ≤ 2 ^ 64) (hd : a.toNat + 16 ≤ b.toNat ∨ b.toNat + 16 ≤ a.toNat) (t : Trb) :
    (putTrb m b t).readTrb a = m.readTrb a := by
  have e8 : (b + 8).toNat = b.toNat + 8 := by
    rw [BitVec.toNat_add]; have : (8 : Addr).toNat = 8 := rfl; omega
  have e12 : (b + 12).toNat = b.toNat + 12 := by
    rw [BitVec.toNat_add]; have : (12 : Addr).toNat = 12 := rfl; omega
  have h1 := Memory.writeWord_wf h b 8 t.param
  have h2 := Memory.writeWord_wf h1 (b + 8) 4 (t.status.setWidth 64)
  unfold putTrb
  rw [readTrb_writeWord_apart h2 _ ha (by omega), readTrb_writeWord_apart h1 _ ha (by omega),
    readTrb_writeWord_apart h _ ha (by omega)]

/-- Outside the 16 bytes of a stored record every byte reads as before. -/
theorem read_putTrb_outside {m : Memory} (h : m.wf = true) {a : Addr} (ha : a.toNat + 16 ≤ 2 ^ 64) (t : Trb) {x : Nat}
    (hx : x < a.toNat ∨ a.toNat + 16 ≤ x) : (putTrb m a t).read x = m.read x := by
  have e8 : (a + 8).toNat = a.toNat + 8 := by
    rw [BitVec.toNat_add]; have : (8 : Addr).toNat = 8 := rfl; omega
  have e12 : (a + 12).toNat = a.toNat + 12 := by
    rw [BitVec.toNat_add]; have : (12 : Addr).toNat = 12 := rfl; omega
  have h1 := Memory.writeWord_wf h a 8 t.param
  have h2 := Memory.writeWord_wf h1 (a + 8) 4 (t.status.setWidth 64)
  unfold putTrb
  rw [Memory.read_writeWord h2, if_neg (by omega), Memory.read_writeWord h1, if_neg (by omega),
    Memory.read_writeWord h, if_neg (by omega)]

/-- Setting a cycle bit changes that bit of that slot. -/
theorem slotTrb_putCycle {m : Memory} (h : m.wf = true) {base : Addr} (hp : base.toNat + 256 ≤ 2 ^ 64) {i j : Nat}
    (hi : i < 16) (hj : j < 16) (b : Bool) :
    slotTrb (putCycle m base i b) base j =
      if j = i then { slotTrb m base i with control := withCycle (slotTrb m base i).control b }
      else slotTrb m base j := by
  have ai := slotAt_toNat hp hi
  have aj := slotAt_toNat hp hj
  have ci := controlAt_toNat hp hi
  unfold slotTrb putCycle
  split
  · next e =>
    subst e
    exact readTrb_writeControl h (by omega) _
  · exact readTrb_writeWord_apart h _ (by omega) (by omega)

theorem slotCycle_putCycle {m : Memory} (h : m.wf = true) {base : Addr} (hp : base.toNat + 256 ≤ 2 ^ 64) {i j : Nat}
    (hi : i < 16) (hj : j < 16) (b : Bool) :
    slotCycle (putCycle m base i b) base j = if j = i then b else slotCycle m base j := by
  unfold slotCycle
  rw [slotTrb_putCycle h hp hi hj]
  split
  · exact trbCycle_withCycle _ _ _
  · rfl

/-- Storing a record into slot `i` changes that slot. -/
theorem slotTrb_putTrb {m : Memory} (h : m.wf = true) {base : Addr} (hp : base.toNat + 256 ≤ 2 ^ 64) {i j : Nat}
    (hi : i < 16) (hj : j < 16) (t : Trb) :
    slotTrb (putTrb m (slotAt base i) t) base j = if j = i then t else slotTrb m base j := by
  have ai := slotAt_toNat hp hi
  have aj := slotAt_toNat hp hj
  unfold slotTrb
  split
  · next e =>
    subst e
    exact readTrb_putTrb h (by omega) t
  · exact readTrb_putTrb_apart h (by omega) (by omega) (by omega) t

/-- Outside the 4 bytes of its control word every byte reads as before. -/
theorem read_putCycle_outside {m : Memory} (h : m.wf = true) {base : Addr} (hp : base.toNat + 256 ≤ 2 ^ 64) {i : Nat}
    (hi : i < 16) (b : Bool) {x : Nat}
    (hx : x < base.toNat + 16 * i + 12 ∨ base.toNat + 16 * i + 16 ≤ x) :
    (putCycle m base i b).read x = m.read x := by
  unfold putCycle
  rw [Memory.read_writeWord h, controlAt_toNat hp hi, if_neg (by omega)]

/-! ### The ring procedures -/

/-- The control word of slot `i`, as an access reads it. -/
theorem readWord_control (m : Memory) (base : Addr) (i : Nat) :
    m.readWord (controlAt base i) 4 = (slotTrb m base i).control.setWidth 64 :=
  (Memory.readWord_four_mask m _).symm

/-- Reading the cycle bit of slot `i`. -/
theorem comes_readCycle (base : Addr) (i : Nat) (k : Word64 → Prog) (s : State) :
    ∃ tr v, v.getLsbD 0 = slotCycle s.mem base i ∧
      Comes (readBitsAt (.dma (controlAt base i)) 4 0 1 k) s (k v) { s with trace := tr } := by
  obtain ⟨tr, h⟩ := comes_readBitsAt_dma (a := controlAt base i) (n := 4) (shift := 0) (width := 1)
    (by omega) (by decide) k s
  refine ⟨tr, _, ?_, h⟩
  rw [readWord_control, readSpan_cycle]
  rfl

/-- Reading the type of slot `i`. -/
theorem comes_readType (base : Addr) (i : Nat) (k : Word64 → Prog) (s : State) :
    ∃ tr, Comes (readBitsAt (.dma (controlAt base i)) 4 10 6 k) s
      (k ((trbTypeOf (slotTrb s.mem base i)).setWidth 64)) { s with trace := tr } := by
  obtain ⟨tr, h⟩ := comes_readBitsAt_dma (a := controlAt base i) (n := 4) (shift := 10) (width := 6)
    (by omega) (by decide) k s
  rw [readWord_control, readSpan_type] at h
  exact ⟨tr, h⟩

/-- Writing the cycle bit of slot `i`. -/
theorem comes_writeCycle (base : Addr) (i : Nat) (b : Bool) (k : Prog) (s : State) :
    ∃ tr, Comes (writeBitsAt (.dma (controlAt base i)) 4 0 1 (bit b) k) s k
      { s with mem := putCycle s.mem base i b, trace := tr } := by
  obtain ⟨tr, h⟩ := comes_writeBitsAt_dma (a := controlAt base i) (n := 4) (shift := 0) (width := 1)
    (by omega) (by decide) (bit b) k s
  rw [readWord_control, writeSpan_cycle] at h
  exact ⟨tr, h⟩

/-- `advance_index` on a slot whose cycle bit differs (R192). -/
theorem comes_advance {s : State} {r : RingId} {b : RingBuf} (hr : s.ring? r = some b) {c : Bool}
    (hc : slotCycle s.mem b.phys b.index.val ≠ c) (k : Prog) :
    ∃ tr, Comes (advance r c k) s k
      { s.moveIndex r (b.index + 1) with mem := putCycle s.mem b.phys b.index.val c, trace := tr } := by
  have h0 := comes_getRing hr (fun b =>
    readBitsAt (.dma (controlAt b.phys b.index.val)) 4 0 1 fun v =>
      if v.getLsbD 0 = c then .fatal .cycleUnchanged
      else
        writeBitsAt (.dma (controlAt b.phys b.index.val)) 4 0 1 (bit c)
          (update (fun s => s.moveIndex r (b.index + 1)) k))
  obtain ⟨tr, v, hv, h1⟩ := comes_readCycle b.phys b.index.val
    (fun v =>
      if v.getLsbD 0 = c then .fatal .cycleUnchanged
      else
        writeBitsAt (.dma (controlAt b.phys b.index.val)) 4 0 1 (bit c)
          (update (fun s => s.moveIndex r (b.index + 1)) k)) s
  rw [hv, if_neg hc] at h1
  obtain ⟨tr', h2⟩ := comes_writeCycle b.phys b.index.val c
    (update (fun s => s.moveIndex r (b.index + 1)) k) { s with trace := tr }
  exact ⟨tr', ((h0.trans h1).trans h2).trans (comes_update _ k _)⟩

/-- `advance_index` on a slot that already holds the new cycle bit (R302): nothing was written. -/
theorem comes_advance_fatal {s : State} {r : RingId} {b : RingBuf} (hr : s.ring? r = some b) {c : Bool}
    (hc : slotCycle s.mem b.phys b.index.val = c) (k : Prog) :
    ∃ tr, Comes (advance r c k) s (.fatal .cycleUnchanged) { s with trace := tr } := by
  have h0 := comes_getRing hr (fun b =>
    readBitsAt (.dma (controlAt b.phys b.index.val)) 4 0 1 fun v =>
      if v.getLsbD 0 = c then .fatal .cycleUnchanged
      else
        writeBitsAt (.dma (controlAt b.phys b.index.val)) 4 0 1 (bit c)
          (update (fun s => s.moveIndex r (b.index + 1)) k))
  obtain ⟨tr, v, hv, h1⟩ := comes_readCycle b.phys b.index.val
    (fun v =>
      if v.getLsbD 0 = c then .fatal .cycleUnchanged
      else
        writeBitsAt (.dma (controlAt b.phys b.index.val)) 4 0 1 (bit c)
          (update (fun s => s.moveIndex r (b.index + 1)) k)) s
  rw [hv, if_pos hc] at h1
  exact ⟨tr, h0.trans h1⟩

/-- `advance_index_notoggle` on a slot with our cycle bit (R193): no memory is written. -/
theorem comes_advanceNotoggle {s : State} {r : RingId} {b : RingBuf} (hr : s.ring? r = some b) {c : Bool}
    (hc : slotCycle s.mem b.phys b.index.val = c) (k : Prog) :
    ∃ tr, Comes (advanceNotoggle r c k) s k { s.moveIndex r (b.index + 1) with trace := tr } := by
  have h0 := comes_getRing hr (fun b =>
    readBitsAt (.dma (controlAt b.phys b.index.val)) 4 0 1 fun v =>
      if v.getLsbD 0 = c then update (fun s => s.moveIndex r (b.index + 1)) k else .fatal .cycleMismatch)
  obtain ⟨tr, v, hv, h1⟩ := comes_readCycle b.phys b.index.val
    (fun v => if v.getLsbD 0 = c then update (fun s => s.moveIndex r (b.index + 1)) k else .fatal .cycleMismatch) s
  rw [hv, if_pos hc] at h1
  exact ⟨tr, (h0.trans h1).trans (comes_update _ k _)⟩

theorem comes_advanceNotoggle_fatal {s : State} {r : RingId} {b : RingBuf} (hr : s.ring? r = some b) {c : Bool}
    (hc : slotCycle s.mem b.phys b.index.val ≠ c) (k : Prog) :
    ∃ tr, Comes (advanceNotoggle r c k) s (.fatal .cycleMismatch) { s with trace := tr } := by
  have h0 := comes_getRing hr (fun b =>
    readBitsAt (.dma (controlAt b.phys b.index.val)) 4 0 1 fun v =>
      if v.getLsbD 0 = c then update (fun s => s.moveIndex r (b.index + 1)) k else .fatal .cycleMismatch)
  obtain ⟨tr, v, hv, h1⟩ := comes_readCycle b.phys b.index.val
    (fun v => if v.getLsbD 0 = c then update (fun s => s.moveIndex r (b.index + 1)) k else .fatal .cycleMismatch) s
  rw [hv, if_neg hc] at h1
  exact ⟨tr, h0.trans h1⟩

/-- `store` (R176): the record with the slot's old cycle bit. -/
theorem comes_storeTrb {a : Addr} (ha : a.toNat + 16 ≤ 2 ^ 64) (t : Trb) (k : Prog) (s : State) :
    ∃ tr, Comes (storeTrb a t k) s k
      { s with
        mem := putTrb s.mem a { t with control := withCycle t.control (trbCycle (s.mem.readTrb a)) }
        trace := tr } := by
  have e8 : (a + 8).toNat = a.toNat + 8 := by
    rw [BitVec.toNat_add]; have : (8 : Addr).toNat = 8 := rfl; omega
  obtain ⟨tr, h1⟩ := comes_readBitsAt_dma (a := a + 12) (n := 4) (shift := 0) (width := 1) (by omega) (by decide)
    (fun c => writeWord (.dma a) 8 t.param
      (writeWord (.dma (a + 8)) 4 (t.status.setWidth 64)
        (writeWord (.dma (a + 12)) 4 ((withCycle t.control (c.getLsbD 0)).setWidth 64) k))) s
  have ec : (readSpan 0 1 (s.mem.readWord (a + 12) 4)).getLsbD 0 = trbCycle (s.mem.readTrb a) := by
    rw [← Memory.readWord_four_mask, readSpan_cycle]
    rfl
  rw [ec] at h1
  obtain ⟨tr1, h2⟩ := comes_writeWord_dma (a := a) (n := 8) (fun _ => by omega) t.param
    (writeWord (.dma (a + 8)) 4 (t.status.setWidth 64)
      (writeWord (.dma (a + 12)) 4 ((withCycle t.control (trbCycle (s.mem.readTrb a))).setWidth 64) k))
    { s with trace := tr }
  obtain ⟨tr2, h3⟩ := comes_writeWord_dma (a := a + 8) (n := 4) (by omega) (t.status.setWidth 64)
    (writeWord (.dma (a + 12)) 4 ((withCycle t.control (trbCycle (s.mem.readTrb a))).setWidth 64) k)
    { s with mem := s.mem.writeWord a 8 t.param, trace := tr1 }
  obtain ⟨tr3, h4⟩ := comes_writeWord_dma (a := a + 12) (n := 4) (by omega)
    ((withCycle t.control (trbCycle (s.mem.readTrb a))).setWidth 64) k
    { s with mem := (s.mem.writeWord a 8 t.param).writeWord (a + 8) 4 (t.status.setWidth 64), trace := tr2 }
  exact ⟨tr3, ((h1.trans h2).trans h3).trans h4⟩

/-- `load` (R177). -/
theorem comes_loadTrb {a : Addr} (ha : a.toNat + 16 ≤ 2 ^ 64) (k : Trb → Prog) (s : State) :
    ∃ tr, Comes (loadTrb a k) s (k (s.mem.readTrb a)) { s with trace := tr } := by
  obtain ⟨tr, h1⟩ := comes_readWord_dma (a := a + 12) (n := 4) (by omega)
    (fun control => readWord (.dma a) 8 fun param => readWord (.dma (a + 8)) 4 fun status =>
      k { param := param, status := status.setWidth 32, control := control.setWidth 32 }) s
  obtain ⟨tr1, h2⟩ := comes_readWord_dma (a := a) (n := 8) (fun _ => by omega)
    (fun param => readWord (.dma (a + 8)) 4 fun status =>
      k { param := param, status := status.setWidth 32, control := (s.mem.readWord (a + 12) 4).setWidth 32 })
    { s with trace := tr }
  obtain ⟨tr2, h3⟩ := comes_readWord_dma (a := a + 8) (n := 4) (by omega)
    (fun status =>
      k { param := s.mem.readWord a 8, status := status.setWidth 32,
          control := (s.mem.readWord (a + 12) 4).setWidth 32 })
    { s with trace := tr1 }
  exact ⟨tr2, (h1.trans h2).trans h3⟩

end Sys2Proof.Machine
end

