-- ==== Sys2Proof/Tests/Slice0.lean ====
section
/-! SUPPORT. The model's own tests: ill-formed terms refused, words written out from spec/30_encoding.md decoded,
the vectors of spec/95_test_vectors.md (named in each test's comment), and for every obligation that has hypotheses a
concrete state and operands that meet them. -/

namespace Sys2Proof.Tests

open Sys2Proof Sys2Proof.Machine

/-! ### Helpers -/

/-- The next state of an instruction. -/
def nextOf (o : Host.Outcome State Fault Refusal) : Option State :=
  match o with
  | .next s => some s
  | .fault _ => none
  | .refused _ => none

/-- What an instruction answers, if it ends without a mark. -/
def answer (i : Instr) (s : State) : Option Result :=
  match nextOf (exec i s) with
  | none => none
  | some t => if t.faulted = none ∧ t.refused = none ∧ t.sw.current = none then some t.sw.result else none

/-- The fatal an instruction ends in. -/
def fatalOf (i : Instr) (s : State) : Option FatalCode := (nextOf (exec i s)).bind (·.faulted)

/-- Why an instruction is refused. -/
def refusalOf (i : Instr) (s : State) : Option Refusal := (nextOf (exec i s)).bind (·.refused)

/-- One word of `n` bytes at 0x100000, in a live allocation. -/
def wordState (v : Word64) (n : Nat) : State :=
  { State.reset with
    mem := Memory.writeWord [] 0x100000 n v
    allocs := [{ base := 0x100000, size := 16, kind := .other }] }

/-- The word of `n` bytes that an instruction leaves at 0x100000. -/
def wordAfter (i : Instr) (s : State) (n : Nat) : Option Word64 :=
  (nextOf (exec i s)).bind fun t => if t.faulted = none ∧ t.refused = none then some (t.mem.readWord 0x100000 n) else none

/-- The word of 4 bytes at 0x100000 of `wordState`. -/
def w32 : WordRef := .dma 0x100000 4
def w64 : WordRef := .dma 0x100000 8

/-- A fresh bare ring at 0x300000 (V-RING). -/
def bareState : State :=
  { State.reset with
    allocs := [{ base := 0x300000, size := 256, kind := .ring }]
    bareRings := [some { phys := 0x300000, index := 0 }] }

/-- The Link record of a ring at `base`, cycle bit 0 (V-RING-10). -/
def linkAt (base : Addr) (m : Memory) : Memory := m.writeBytes (base.toNat + 240) (trbBytes (linkRecord base false))

/-- Slots of a ring at `base`, from the lowest: control words. -/
def controlsAt (base : Addr) (f : Nat → Word64) (m : Memory) : Memory :=
  (List.range 15).foldl (fun m j => m.writeWord (controlAt base j) 4 (f j)) m

/-- The Command Ring at 0x200000 on its first lap, cursor at `i`, No-Op records in its slots (P2). -/
def cmdState (i : Fin 16) : State :=
  { State.reset with
    mem := linkAt 0x200000 (controlsAt 0x200000 (fun j => if j < i.val then 0x5C01 else 0x5C00) [])
    allocs := [{ base := 0x200000, size := 256, kind := .ring }]
    cmdRing := some { ring := { phys := 0x200000, index := i }, cso := false } }

/-- Buffer `i` of the Transfer Ring of P4. -/
def bufferAt (i : Nat) : Addr := 0x400000 + BitVec.ofNat 64 (4096 * i)

/-- The Transfer Ring of P4 (ring at 0x300000) with `n` slots armed, cursors `e` and `d`. -/
def trState (n : Nat) (e : Fin 16) (d : Fin 15) : State :=
  { State.reset with
    mem :=
      linkAt 0x300000
        ((List.range 15).foldl
          (fun m j =>
            m.writeBytes (0x300000 + 16 * j)
              (trbBytes
                { param := bufferAt j, status := 4096, control := if j < n then 0x425 else 0x424 })) [])
    allocs := [{ base := 0x300000, size := 256, kind := .ring }]
    transferRings :=
      [some
        { ring := { phys := 0x300000, index := e }, deq := d, cso := false, buffers := (List.range 15).map bufferAt,
          lock := .free }] }

/-- The Event Ring of V-ER at 0x201000, with the record of V-TRB-19 in slot 0 if `posted`. -/
def evState (posted : Bool) : State :=
  { State.reset with
    mem :=
      if posted then
        Memory.writeBytes [] 0x201000 [0x10, 0, 0x20, 0, 0, 0, 0, 0, 0, 0, 0, 1, 1, 0x84, 0, 1]
      else []
    allocs := [{ base := 0x201000, size := 256, kind := .ring }]
    eventRing :=
      some { ring := { phys := 0x201000, index := 0 }, cso := true, unread := if posted then 1 else 0 } }

/-- The DCBAA of V-PIN-3. -/
def dcbaaState : State :=
  { State.reset with
    allocs := [{ base := 0x202000, size := 2048, kind := .dcbaa }]
    dcbaa := some 0x202000 }

/-- A controller that runs, and SW with nothing to do. -/
def runningState : State := { State.reset with op := { State.reset.op with usbcmd := 1, usbsts := 0 } }

/-! ### Ill-formed terms -/

theorem test_illFormed_dma_size : (Instr.wellFormed (.read (.dma 0x1000 3))) = false := by decide

theorem test_illFormed_dma_misaligned : (Instr.wellFormed (.write (.dma 0x1002 4) 0)) = false := by decide

theorem test_illFormed_mmio_size : (Instr.wellFormed (.readBits (.mmio .op 0 16) 0 1)) = false := by decide

theorem test_illFormed_mmio_misaligned : (Instr.wellFormed (.writeBits (.mmio .op 6 4) 0 1 0)) = false := by decide

theorem test_illFormed_doorbell_word_register : (Instr.wellFormed (.dbword 256 0 0)) = false := by decide

theorem test_illFormed_dcbaa_word_index : (Instr.wellFormed (.dcbaaent 256 0)) = false := by decide

theorem test_illFormed_normal_address : (Instr.wellFormed (.normalTrbNew (2 ^ 64) 0)) = false := by decide

theorem test_illFormed_normal_length : (Instr.wellFormed (.normalTrbNew 0 (2 ^ 17))) = false := by decide

theorem test_illFormed_setup_request_type : (Instr.wellFormed (.setupStageTrbNew 256 0 0 0 0)) = false := by decide

theorem test_illFormed_setup_request : (Instr.wellFormed (.setupStageTrbNew 0 256 0 0 0)) = false := by decide

theorem test_illFormed_setup_value : (Instr.wellFormed (.setupStageTrbNew 0 0 65536 0 0)) = false := by decide

theorem test_illFormed_setup_index : (Instr.wellFormed (.setupStageTrbNew 0 0 0 65536 0)) = false := by decide

theorem test_illFormed_setup_length : (Instr.wellFormed (.setupStageTrbNew 0 0 0 0 65536)) = false := by decide

theorem test_illFormed_data_in_address : (Instr.wellFormed (.dataStageTrbNewIn (2 ^ 64) 0)) = false := by decide

theorem test_illFormed_data_in_length : (Instr.wellFormed (.dataStageTrbNewIn 0 (2 ^ 17))) = false := by decide

theorem test_illFormed_data_out_address : (Instr.wellFormed (.dataStageTrbNewOut (2 ^ 64) 0)) = false := by decide

theorem test_illFormed_data_out_length : (Instr.wellFormed (.dataStageTrbNewOut 0 (2 ^ 17))) = false := by decide

theorem test_illFormed_command_type_low : (Instr.wellFormed (.commandTrbNew 8 0 0)) = false := by decide

theorem test_illFormed_command_type_high : (Instr.wellFormed (.commandTrbNew 26 0 0)) = false := by decide

theorem test_illFormed_command_slot : (Instr.wellFormed (.commandTrbNew 9 256 0)) = false := by decide

theorem test_illFormed_command_param : (Instr.wellFormed (.commandTrbNew 9 0 (2 ^ 64))) = false := by decide

theorem test_illFormed_notify_register : (Instr.wellFormed (.notify 256 0 0)) = false := by decide

theorem test_illFormed_notify_target : (Instr.wellFormed (.notify 0 256 0)) = false := by decide

theorem test_illFormed_notify_stream : (Instr.wellFormed (.notify 0 0 65536)) = false := by decide

theorem test_illFormed_pinned_size : (Instr.wellFormed (.pinnedNew 0 0 1 true)) = false := by decide

theorem test_illFormed_pinned_align : (Instr.wellFormed (.pinnedNew 0 1 0 true)) = false := by decide

theorem test_illFormed_set_entry_index : (Instr.wellFormed (.dcbaaSetEntry 256 0)) = false := by decide

theorem test_illFormed_entry_index : (Instr.wellFormed (.dcbaaEntry 256)) = false := by decide

theorem test_illFormed_push_type : (Instr.wellFormed (.push { param := 0, status := 0, control := 0x1800 })) = false := by
  decide

theorem test_illFormed_push_status : (Instr.wellFormed (.push { param := 0, status := 1, control := 0x5C00 })) = false := by
  decide

theorem test_illFormed_push_bits : (Instr.wellFormed (.push { param := 0, status := 0, control := 0x5C01 })) = false := by
  decide

theorem test_wellFormed : ([.read w32, .notify 255 255 65535, .commandTrbNew 25 255 0, .dcbaaEntry 255] : List Instr).all Instr.wellFormed = true := by
  decide

/-! ### Decoding: one word for every record type (R102, R103, R108), bit 0 the cycle bit -/

/-- The record of a control word with cycle bit `c` and slot id `s` and nothing else. -/
def plain (c : Bool) (s : BitVec 8) : Rec := { param := 0, status := 0, cycle := c, flags := 0, mid := 0, slot := s }

theorem test_decode_types_0_to_15 :
    decodeTableWord 32 0x00000000 = some (.reserved0 (plain false 0)) ∧
      decodeTableWord 32 0x01000401 = some (.normal (plain true 1)) ∧
      decodeTableWord 32 0x02000801 = some (.setupStage (plain true 2)) ∧
      decodeTableWord 32 0x03000C01 = some (.dataStage (plain true 3)) ∧
      decodeTableWord 32 0x04001001 = some (.statusStage (plain true 4)) ∧
      decodeTableWord 32 0x05001401 = some (.isoch (plain true 5)) ∧
      decodeTableWord 32 0x06001801 = some (.link (plain true 6)) ∧
      decodeTableWord 32 0x07001C01 = some (.eventData (plain true 7)) ∧
      decodeTableWord 32 0x08002001 = some (.noopTransfer (plain true 8)) ∧
      decodeTableWord 32 0x09002401 = some (.enableSlotCmd (plain true 9)) ∧
      decodeTableWord 32 0x0A002801 = some (.disableSlotCmd (plain true 10)) ∧
      decodeTableWord 32 0x0B002C01 = some (.addressDeviceCmd (plain true 11)) ∧
      decodeTableWord 32 0x0C003001 = some (.configureEndpointCmd (plain true 12)) ∧
      decodeTableWord 32 0x0D003401 = some (.evaluateContextCmd (plain true 13)) ∧
      decodeTableWord 32 0x0E003801 = some (.resetEndpointCmd (plain true 14)) ∧
      decodeTableWord 32 0x0F003C01 = some (.stopEndpointCmd (plain true 15)) := by
  decide

theorem test_decode_types_16_to_31 :
    decodeTableWord 32 0x10004001 = some (.setTrDequeuePointerCmd (plain true 16)) ∧
      decodeTableWord 32 0x11004401 = some (.resetDeviceCmd (plain true 17)) ∧
      decodeTableWord 32 0x12004801 = some (.forceEventCmd (plain true 18)) ∧
      decodeTableWord 32 0x13004C01 = some (.negotiateBandwidthCmd (plain true 19)) ∧
      decodeTableWord 32 0x14005001 = some (.setLatencyToleranceValueCmd (plain true 20)) ∧
      decodeTableWord 32 0x15005401 = some (.getPortBandwidthCmd (plain true 21)) ∧
      decodeTableWord 32 0x16005801 = some (.forceHeaderCmd (plain true 22)) ∧
      decodeTableWord 32 0x17005C01 = some (.noopCmd (plain true 23)) ∧
      decodeTableWord 32 0x18006001 = some (.getExtendedPropertyCmd (plain true 24)) ∧
      decodeTableWord 32 0x19006401 = some (.setExtendedPropertyCmd (plain true 25)) ∧
      decodeTableWord 32 0x1A006801 = some (.reserved26 (plain true 26)) ∧
      decodeTableWord 32 0x1B006C01 = some (.reserved27 (plain true 27)) ∧
      decodeTableWord 32 0x1C007001 = some (.reserved28 (plain true 28)) ∧
      decodeTableWord 32 0x1D007401 = some (.reserved29 (plain true 29)) ∧
      decodeTableWord 32 0x1E007801 = some (.reserved30 (plain true 30)) ∧
      decodeTableWord 32 0x1F007C01 = some (.reserved31 (plain true 31)) := by
  decide

theorem test_decode_types_32_to_47 :
    decodeTableWord 32 0x20008001 = some (.transferEvent (plain true 32)) ∧
      decodeTableWord 32 0x21008401 = some (.commandCompletionEvent (plain true 33)) ∧
      decodeTableWord 32 0x22008801 = some (.portStatusChangeEvent (plain true 34)) ∧
      decodeTableWord 32 0x23008C01 = some (.bandwidthRequestEvent (plain true 35)) ∧
      decodeTableWord 32 0x24009001 = some (.doorbellEvent (plain true 36)) ∧
      decodeTableWord 32 0x25009401 = some (.hostControllerEvent (plain true 37)) ∧
      decodeTableWord 32 0x26009801 = some (.deviceNotificationEvent (plain true 38)) ∧
      decodeTableWord 32 0x27009C01 = some (.mfindexWrapEvent (plain true 39)) ∧
      decodeTableWord 32 0x2800A001 = some (.reserved40 (plain true 40)) ∧
      decodeTableWord 32 0x2900A401 = some (.reserved41 (plain true 41)) ∧
      decodeTableWord 32 0x2A00A801 = some (.reserved42 (plain true 42)) ∧
      decodeTableWord 32 0x2B00AC01 = some (.reserved43 (plain true 43)) ∧
      decodeTableWord 32 0x2C00B001 = some (.reserved44 (plain true 44)) ∧
      decodeTableWord 32 0x2D00B401 = some (.reserved45 (plain true 45)) ∧
      decodeTableWord 32 0x2E00B801 = some (.reserved46 (plain true 46)) ∧
      decodeTableWord 32 0x2F00BC01 = some (.reserved47 (plain true 47)) := by
  decide

theorem test_decode_types_48_to_63 :
    decodeTableWord 32 0x3000C001 = some (.vendor48 (plain true 48)) ∧
      decodeTableWord 32 0x3100C401 = some (.vendor49 (plain true 49)) ∧
      decodeTableWord 32 0x3200C801 = some (.vendor50 (plain true 50)) ∧
      decodeTableWord 32 0x3300CC01 = some (.vendor51 (plain true 51)) ∧
      decodeTableWord 32 0x3400D001 = some (.vendor52 (plain true 52)) ∧
      decodeTableWord 32 0x3500D401 = some (.vendor53 (plain true 53)) ∧
      decodeTableWord 32 0x3600D801 = some (.vendor54 (plain true 54)) ∧
      decodeTableWord 32 0x3700DC01 = some (.vendor55 (plain true 55)) ∧
      decodeTableWord 32 0x3800E001 = some (.vendor56 (plain true 56)) ∧
      decodeTableWord 32 0x3900E401 = some (.vendor57 (plain true 57)) ∧
      decodeTableWord 32 0x3A00E801 = some (.vendor58 (plain true 58)) ∧
      decodeTableWord 32 0x3B00EC01 = some (.vendor59 (plain true 59)) ∧
      decodeTableWord 32 0x3C00F001 = some (.vendor60 (plain true 60)) ∧
      decodeTableWord 32 0x3D00F401 = some (.vendor61 (plain true 61)) ∧
      decodeTableWord 32 0x3E00F801 = some (.vendor62 (plain true 62)) ∧
      decodeTableWord 32 0x3F00FC01 = some (.vendor63 (plain true 63)) := by
  decide

/-- R104, R106 to R113, R115: the fields of the control word, each in its operand. -/
theorem test_decode_fields :
    decodeTableWord 32 0x00000424 = some (.normal { plain false 0 with flags := 0x12 }) ∧
      decodeTableWord 32 0x00030840 = some (.setupStage { plain false 0 with flags := 0x20, mid := 3 }) ∧
      decodeTableWord 32 0x00010C20 = some (.dataStage { plain false 0 with flags := 0x10, mid := 1 }) ∧
      decodeTableWord 32 0x00011020 = some (.statusStage { plain false 0 with flags := 0x10, mid := 1 }) ∧
      decodeTableWord 32 0x00001803 = some (.link { plain true 0 with flags := 1 }) ∧
      decodeTableWord 32 0x02038001 = some (.transferEvent { plain true 2 with mid := 3 }) := by
  decide

/-- R116 (S2), R117 (V-MM-8), R119 (V-PIN-3): the other word formats. -/
theorem test_decode_words :
    decodeTableWord 32 0x00050000 = some (.dbword 0 0 5) ∧ decodeTableWord 32 0xFFFF00FF = some (.dbword 0 255 0xFFFF) ∧
      decodeTableWord 64 0x0000000000200001 = some (.crcrword 0x8000) ∧
      decodeTableWord 64 0x000000001234A000 = some (.dcbaaent 0 0x1234A000) := by
  decide

/-- V-TRB-19: sixteen bytes in memory order. -/
theorem test_decode_bytes :
    (match decode .standard .trb [0x10, 0, 0x20, 0, 0, 0, 0, 0, 0, 0, 0, 1, 1, 0x84, 0, 1] with
      | .ok i => some i
      | .error _ => none) =
      some (.commandCompletionEvent
        { param := 0x200010, status := 0x01000000, cycle := true, flags := 0, mid := 0, slot := 1 }) := by
  decide

/-- Bytes of no format are rejected by name (R116, R117, R122). -/
theorem test_decode_rejects :
    (decode .standard .trb [0, 0, 0] matches .error .recordLength) = true ∧
      (decode .standard (.dbword 0) [0, 1, 0, 0] matches .error .doorbellZero) = true ∧
      (decode .standard (.dbword 0) [0, 0] matches .error .wordLength) = true ∧
      (decode .standard .crcrword [3, 0, 0, 0, 0, 0, 0, 0] matches .error .crcrLowBits) = true := by
  decide

/-- V-TRB-17, S2, V-MM-8: the encoder writes the bytes of the vectors. -/
theorem test_encode :
    encode .standard (.setExtendedPropertyCmd
        { param := 0xFFFFFFFFFFFFFFF0, status := 0, cycle := false, flags := 0, mid := 0, slot := 255 }) =
      some (.trb, [0xF0, 0xFF, 0xFF, 0xFF, 0xFF, 0xFF, 0xFF, 0xFF, 0, 0, 0, 0, 0, 0x64, 0, 0xFF]) ∧
      encode .standard (.dbword 3 0 5) = some (.dbword 3, [0, 0, 5, 0]) ∧
      encode .standard (.crcrword 0x8000) = some (.crcrword, [1, 0, 0x20, 0, 0, 0, 0, 0]) := by
  decide

/-- A placed table word is what the next step runs: a command fetched by the controller. -/
theorem test_withFetchWord_record :
    (nextOf (step (State.reset.withFetchWord 32 0x00005C01))).map (fun t => (t.hc.cmd.p, t.hc.unposted.length)) =
      some (0x200010, 1) := by
  decide

/-- And a doorbell word written by SW (S2). -/
theorem test_withFetchWord_doorbell :
    (nextOf (step (State.reset.withFetchWord 32 0x00050000))).map (fun t => t.trace.map fun a => (a.loc, a.value)) =
      some [(.reg (.doorbell 0), 0x00050000)] := by
  decide

/-! ### Bitfield Register Accessor -/

/-- R141, and two accesses recorded for two calls. -/
theorem test_read : answer (.read w32) (wordState 0x01002C00 4) = some (.word 0x01002C00) := by decide

theorem test_read_usbsts :
    answer (.read (.mmio .op 4 4)) { State.reset with op := { State.reset.op with usbsts := 1 } } = some (.word 1) := by
  decide

/-- R142: all bits replaced. -/
theorem test_write : wordAfter (.write w32 0xCAFEBABE) (wordState 0x12345678 4) 4 = some 0xCAFEBABE := by decide

/-- R142, R306: a Capability register is not written. -/
theorem test_write_refused : refusalOf (.write (.mmio .cap 4 4) 0) State.reset = some .capabilityWrite := by decide

/-- V-BIT-1, 2, 4, 10, 11, 15. -/
theorem test_readBits :
    answer (.readBits w32 10 6) (wordState 0x01002C00 4) = some (.word 11) ∧
      answer (.readBits w32 24 8) (wordState 0x01002C00 4) = some (.word 1) ∧
      answer (.readBits w32 0 32) (wordState 0x01002C00 4) = some (.word 0x01002C00) ∧
      answer (.readBits w32 5 0) (wordState 0x12345678 4) = some (.word 0) ∧
      answer (.readBits w32 32 0) (wordState 0x12345678 4) = some (.word 0) ∧
      answer (.readBits w64 60 4) (wordState 0x0123456789ABCDEF 8) = some (.word 0) := by
  decide

/-- V-BIT-12. -/
theorem test_readBits_fatal : fatalOf (.readBits w32 31 2) (wordState 0x12345678 4) = some .bitRange := by decide

/-- V-BIT-5 to 9, 14, 16, 17. -/
theorem test_writeBits :
    wordAfter (.writeBits w32 0 1 0) (wordState 0x401 4) 4 = some 0x400 ∧
      wordAfter (.writeBits w32 8 4 0x35) (wordState 0xFFFFFFFF 4) 4 = some 0xFFFFF5FF ∧
      wordAfter (.writeBits w32 24 8 0xFF) (wordState 0 4) 4 = some 0xFF000000 ∧
      wordAfter (.writeBits w32 4 0 0xF) (wordState 0x12345678 4) 4 = some 0x12345678 ∧
      wordAfter (.writeBits w64 32 32 0xFFFFFFFF) (wordState 0x0123456789ABCDEF 8) 8 = some 0xFFFFFFFF89ABCDEF ∧
      wordAfter (.writeBits w64 63 1 1) (wordState 0 8) 8 = some 0x8000000000000000 ∧
      wordAfter (.writeBits w32 0 8 8) (wordState 0x340 4) 4 = some 0x308 := by
  decide

/-- V-BIT-13: no access, the word unchanged. -/
theorem test_writeBits_fatal :
    fatalOf (.writeBits w32 28 8 1) (wordState 0x12345678 4) = some .bitRange ∧
      (nextOf (exec (.writeBits w32 28 8 1) (wordState 0x12345678 4))).map (fun t => (t.mem.readWord 0x100000 4, t.trace)) =
        some (0x12345678, []) := by
  decide

/-! ### TRB codec -/

/-- V-TRB-1. -/
theorem test_normalTrbNew :
    answer (.normalTrbNew 0x12345000 4096) State.reset =
      some (.trb { param := 0x12345000, status := 0x1000, control := 0x424 }) := by
  decide

/-- V-TRB-2. -/
theorem test_trbLink :
    answer (.trbLink .command) (cmdState 0) = some (.trb { param := 0x200000, status := 0, control := 0x1802 }) := by
  decide

/-- V-TRB-3, 4, 5. -/
theorem test_setupStageTrbNew :
    answer (.setupStageTrbNew 0x80 6 0x0100 0 18) State.reset =
        some (.trb { param := 0x0012000001000680, status := 8, control := 0x00030840 }) ∧
      answer (.setupStageTrbNew 0 5 1 0 0) State.reset =
        some (.trb { param := 0x0000000000010500, status := 8, control := 0x840 }) ∧
      answer (.setupStageTrbNew 0x21 9 0x0200 1 8) State.reset =
        some (.trb { param := 0x0008000102000921, status := 8, control := 0x00020840 }) := by
  decide

/-- V-TRB-6, 7. -/
theorem test_setupStageTrbNew_corners :
    answer (.setupStageTrbNew 0x80 6 0x0100 0 0) State.reset =
        some (.trb { param := 0x0000000001000680, status := 8, control := 0x840 }) ∧
      answer (.setupStageTrbNew 0xFF 0xFF 0xFFFF 0xFFFF 0xFFFF) State.reset =
        some (.trb { param := 0xFFFFFFFFFFFFFFFF, status := 8, control := 0x00030840 }) := by
  decide

/-- V-TRB-8, 9, 10, 11. -/
theorem test_stageTrbs :
    answer (.dataStageTrbNewIn 0x12346000 18) State.reset =
        some (.trb { param := 0x12346000, status := 18, control := 0x00010C20 }) ∧
      answer (.dataStageTrbNewOut 0x12347000 8) State.reset =
        some (.trb { param := 0x12347000, status := 8, control := 0xC20 }) ∧
      answer .statusStageTrbNewIn State.reset = some (.trb { param := 0, status := 0, control := 0x00011020 }) ∧
      answer .statusStageTrbNewOut State.reset = some (.trb { param := 0, status := 0, control := 0x1020 }) := by
  decide

/-- V-TRB-12, 14, 17. -/
theorem test_commandTrbNew :
    answer (.commandTrbNew 23 0 0) State.reset = some (.trb { param := 0, status := 0, control := 0x5C00 }) ∧
      answer (.commandTrbNew 11 1 0x12348000) State.reset =
        some (.trb { param := 0x12348000, status := 0, control := 0x01002C00 }) ∧
      answer (.commandTrbNew 25 255 0xFFFFFFFFFFFFFFF0) State.reset =
        some (.trb { param := 0xFFFFFFFFFFFFFFF0, status := 0, control := 0xFF006400 }) := by
  decide

/-- V-TRB-18. -/
theorem test_commandTrbNew_refused :
    refusalOf (.commandTrbNew 8 0 0) State.reset = some .commandType ∧
      refusalOf (.commandTrbNew 26 0 0) State.reset = some .commandType := by
  decide

/-- V-TRB-19 as a value and in slot 0 of a ring. -/
theorem test_accessors_value :
    let t : TrbSrc := .value { param := 0x200010, status := 0x01000000, control := 0x01008401 }
    answer (.cycleBitState t) State.reset = some (.flag true) ∧ answer (.trbType t) State.reset = some (.word 33) ∧
      answer (.slotId t) State.reset = some (.word 1) ∧ answer (.data t) State.reset = some (.word 0x200010) ∧
      answer (.toggleCycle t) State.reset = some (.flag false) ∧
      answer (.completionCode t) State.reset = some (.word 1) ∧
      answer (.transferLength t) State.reset = some (.word 0) ∧
      answer (.classify t) State.reset = some (.cls (.event 33)) := by
  decide

theorem test_accessors_slot :
    let s := evState true
    let t : TrbSrc := .slot .event 0
    answer (.cycleBitState t) s = some (.flag true) ∧ answer (.trbType t) s = some (.word 33) ∧
      answer (.slotId t) s = some (.word 1) ∧ answer (.data t) s = some (.word 0x200010) ∧
      answer (.toggleCycle t) s = some (.flag false) ∧ answer (.completionCode t) s = some (.word 1) ∧
      answer (.transferLength t) s = some (.word 0) ∧ answer (.classify t) s = some (.cls (.event 33)) := by
  decide

/-- V-TRB-20: 24 bits of length for an event; R105: 17 for a transfer TRB. -/
theorem test_transferLength :
    answer (.transferLength (.value { param := 0, status := 0x0D800006, control := 0x02038001 })) State.reset =
        some (.word 0x800006) ∧
      answer (.transferLength (.value { param := 0, status := 0xFFFFFFFF, control := 0x424 })) State.reset =
        some (.word 0x1FFFF) := by
  decide

/-- V-TRB-21, 22. -/
theorem test_classify :
    answer (.classify (.value { param := 0, status := 0, control := 0 })) State.reset = some (.cls (.reserved 0)) ∧
      answer (.classify (.value { param := 0, status := 0, control := 0xF001 })) State.reset =
        some (.cls (.vendor 60)) := by
  decide

/-- V-TRB-23. -/
theorem test_setCycleState :
    (nextOf (exec (.setCycleState .command 0 true) (cmdState 0))).map (fun t => t.mem.readWord 0x20000C 4) =
      some 0x5C01 := by
  decide

/-- V-TRB-24: the slot keeps its old cycle bit. -/
theorem test_store :
    (nextOf (exec (.store .command 0 { param := 1, status := 2, control := 0x2400 }) (cmdState 1))).map
        (fun t => t.mem.readTrb 0x200000) =
      some { param := 1, status := 2, control := 0x2401 } := by
  decide +kernel

theorem test_load :
    answer (.load .event 0) (evState true) =
      some (.trb { param := 0x200010, status := 0x01000000, control := 0x01008401 }) := by
  decide

/-! ### Rings -/

/-- R190: the fresh ring at the address the allocator gave. -/
theorem test_trbRingNew :
    (nextOf (exec (.trbRingNew (.bare 0)) { State.reset with supply := [0x300000] })).map
        (fun t => (t.bareRings, t.mem, t.allocs)) =
      some ([some { phys := 0x300000, index := 0 }], [], [{ base := 0x300000, size := 256, kind := .ring }]) := by
  decide

/-- V-PIN-5: an answer that is not page-aligned is not admissible. -/
theorem test_trbRingNew_fatal :
    fatalOf (.trbRingNew (.bare 0)) { State.reset with supply := [0x200800] } = some .dmaAlloc := by
  decide

/-- V-RING-2, 3. -/
theorem test_slot :
    answer (.slotAddr (.bare 0) 0) bareState = some (.word 0x300000) ∧
      answer (.slotAddr (.bare 0) 15) bareState = some (.word 0x3000F0) ∧
      answer (.slot (.bare 0) 15) bareState = some (.slotRef (.bare 0) 15) ∧
      fatalOf (.slot (.bare 0) 16) bareState = some .ringIndex := by
  decide

/-- V-RING-1. -/
theorem test_advanceIndex :
    (nextOf (exec (.advanceIndex (.bare 0) true) bareState)).map (fun t => (t.bareRings, t.mem)) =
      some ([some { phys := 0x300000, index := 1 }], [(0x30000C, 1)]) := by
  decide

/-- V-RING-4. -/
theorem test_advanceIndex_fatal :
    (nextOf (exec (.advanceIndex (.bare 0) false) bareState)).map (fun t => (t.faulted, t.bareRings, t.mem)) =
      some (some .cycleUnchanged, [some { phys := 0x300000, index := 0 }], []) := by
  decide

/-- V-RING-9. -/
theorem test_advanceIndexNotoggle :
    (nextOf (exec (.advanceIndexNotoggle (.bare 0) false) bareState)).map (fun t => (t.bareRings, t.mem)) =
      some ([some { phys := 0x300000, index := 1 }], []) := by
  decide

/-- V-RING-8. -/
theorem test_advanceIndexNotoggle_fatal :
    fatalOf (.advanceIndexNotoggle (.bare 0) true) bareState = some .cycleMismatch := by
  decide

/-- R194. -/
theorem test_trbRingReset :
    (nextOf (exec (.trbRingReset 0)
        { bareState with
          mem := Memory.writeWord [] 0x3000FC 4 0x1803, bareRings := [some { phys := 0x300000, index := 14 }] })).map
        (fun t => (t.bareRings, t.mem)) =
      some ([some { phys := 0x300000, index := 0 }], [(0x3000FC, 2), (0x3000FD, 0x18)]) := by
  decide

/-- R195, R196; R230: `D` and `cso` under the lock, which is free again. -/
theorem test_current :
    answer (.current (.slot .command)) (cmdState 14) = some (.slotRef .command 14) ∧
      answer (.trbRingPhysAddr .command) (cmdState 14) = some (.word 0x200000) ∧
      answer (.current (.dequeue 0)) (trState 14 14 1) = some (.slotRef (.transfer 0) 1) ∧
      answer (.current (.flag 0)) (trState 14 14 1) = some (.flag false) ∧
      (nextOf (exec (.current (.flag 0)) (trState 14 14 1))).map (fun t => t.lock? (.ring 0)) = some (some .free) := by
  decide +kernel

/-- V-RING-10. -/
theorem test_setLinkTrb :
    (nextOf (exec (.setLinkTrb (.bare 0)) bareState)).map (fun t => t.mem) =
      some [(0x3000F2, 0x30), (0x3000FC, 2), (0x3000FD, 0x18)] := by
  decide

/-- R198's example. -/
theorem test_skipLink :
    (nextOf (exec (.skipLink .command) (cmdState 15))).map (fun t => (t.cmdRing, t.mem.readWord 0x2000FC 4)) =
      some (some { ring := { phys := 0x200000, index := 0 }, cso := true }, 0x1803) := by
  decide

/-! ### Command Ring -/

/-- V-CR-1. -/
theorem test_commandRingNew :
    (nextOf (exec .commandRingNew { State.reset with supply := [0x200000] })).map (fun t => (t.cmdRing, t.mem)) =
      some
        (some { ring := { phys := 0x200000, index := 0 }, cso := false },
          [(0x2000F2, 0x20), (0x2000FC, 2), (0x2000FD, 0x18)]) := by
  decide

/-- V-CR-2, R213. -/
theorem test_crcrValue :
    answer .crcrValue (cmdState 0) = some (.word 0x200001) ∧
      answer .commandRingPhysAddr (cmdState 0) = some (.word 0x200000) := by
  decide

/-- V-CR-3. -/
theorem test_push :
    (nextOf (exec (.push (commandTrb 23 0 0)) (cmdState 0))).map
        (fun t => (t.sw.result, t.cmdRing, t.mem.readWord 0x20000C 4)) =
      some (.word 0x200000, some { ring := { phys := 0x200000, index := 1 }, cso := false }, 0x5C01) := by
  decide

/-- V-CR-4. -/
theorem test_push_passes_link :
    (nextOf (exec (.push (commandTrb 23 0 0)) (cmdState 14))).map
        (fun t => (t.sw.result, t.cmdRing, t.mem.readWord 0x2000FC 4)) =
      some (.word 0x2000E0, some { ring := { phys := 0x200000, index := 0 }, cso := true }, 0x1803) := by
  decide

/-- R300, R302: `push` on a slot already handed over is fatal, and the slot is as it was (its record not replaced). -/
theorem test_push_fatal :
    (nextOf (exec (.push (commandTrb 9 0 1))
        { cmdState 1 with cmdRing := some { ring := { phys := 0x200000, index := 0 }, cso := false } })).map
        (fun t => (t.faulted, t.mem.readTrb 0x200000, t.trace)) =
      some (some .cycleUnchanged, { param := 0, status := 0, control := 0x5C01 }, []) := by
  decide +kernel

/-- R212: ring and flag together. -/
theorem test_commandRingReset :
    (nextOf (exec .commandRingReset
        { cmdState 14 with cmdRing := some { ring := { phys := 0x200000, index := 14 }, cso := true } })).map
        (fun t => (t.cmdRing, t.mem.readWord 0x20000C 4, t.mem.readWord 0x2000FC 4)) =
      some (some { ring := { phys := 0x200000, index := 0 }, cso := false }, 0x5C00, 0x1802) := by
  decide +kernel

/-! ### Transfer Ring -/

/-- V-TR-1. -/
theorem test_transferRingNew :
    (nextOf (exec (.transferRingNew 0)
        { State.reset with supply := 0x300000 :: (List.range 15).map bufferAt })).map
        (fun t => (t.mem.readTrb 0x300000, t.mem.readTrb 0x3000E0, t.mem.readTrb 0x3000F0)) =
      some
        ({ param := 0x400000, status := 4096, control := 0x424 },
          { param := 0x40E000, status := 4096, control := 0x424 },
          { param := 0x300000, status := 0, control := 0x1802 }) := by
  decide +kernel

/-- R296, R300: the second allocation is declined; the first block stays, and no record was stored. -/
theorem test_transferRingNew_fatal :
    (nextOf (exec (.transferRingNew 0) { State.reset with supply := [0x300000, 0x400000, 1] })).map
        (fun t => (t.faulted, t.mem.readTrb 0x300000, t.allocs.map (·.base), t.transferRings.length, t.trace)) =
      some (some .dmaAlloc, { param := 0, status := 0, control := 0 }, [0x400000, 0x300000], 0, []) := by
  decide +kernel

/-- R226: a length above 4096. -/
theorem test_transferRingNew_refused :
    refusalOf (.transferRingNew 0) { State.reset with cfg := { State.reset.cfg with trTransferLen := 4097 } } =
      some .transferLen := by
  decide

/-- V-TR-2. -/
theorem test_fillRing :
    (nextOf (exec (.fillRing 0) (trState 0 0 0))).map
        (fun t =>
          ((t.transferRing? 0).map (fun r => (r.ring.index, r.lock)), t.mem.readWord 0x3000CC 4, t.mem.readWord 0x3000DC 4)) =
      some (some (13, .free), 0x425, 0x424) := by
  decide +kernel

/-- V-TR-3. -/
theorem test_fillRing_arms_nothing :
    (nextOf (exec (.fillRing 0) (trState 13 13 0))).map (fun t => decide (t.mem = (trState 13 13 0).mem)) = some true := by
  decide +kernel

/-- V-TR-5: the second dequeue passes the Link. -/
theorem test_dequeueTrb :
    (nextOf (exec (.dequeueTrb 0 0x300010) (trState 14 14 1))).map
        (fun t =>
          ((t.transferRing? 0).map (fun r => (r.ring.index, r.deq, r.cso)), t.mem.readWord 0x3000EC 4,
            t.mem.readWord 0x3000FC 4)) =
      some (some (0, 2, true), 0x425, 0x1803) := by
  decide +kernel

/-- V-TR-6. -/
theorem test_dequeueTrb_fatal : fatalOf (.dequeueTrb 0 0x300000) (trState 14 14 1) = some .dequeueAddr := by decide

/-! ### Event Ring -/

/-- V-ER-1, V-ER-3. -/
theorem test_hasEvent :
    answer .hasEvent (evState false) = some (.flag false) ∧ answer .hasEvent (evState true) = some (.flag true) := by
  decide

/-- V-ER-3. -/
theorem test_pop :
    (nextOf (exec .pop (evState true))).map (fun t => (t.sw.result, t.eventRing, decide (t.mem = (evState true).mem))) =
      some
        (.trb { param := 0x200010, status := 0x01000000, control := 0x01008401 },
          some { ring := { phys := 0x201000, index := 1 }, cso := true, unread := 0 }, true) := by
  decide

/-- V-ER-2. -/
theorem test_pop_fatal : fatalOf .pop (evState false) = some .cycleMismatch := by decide

/-- V-ER-5. -/
theorem test_eventRingReset :
    (nextOf (exec .eventRingReset
        { evState true with eventRing := some { ring := { phys := 0x201000, index := 5 }, cso := false, unread := 3 } })).map
        (fun t => (t.eventRing, t.mem.readWord 0x20100C 4)) =
      some (some { ring := { phys := 0x201000, index := 0 }, cso := true, unread := 0 }, 0x01008400) := by
  decide

/-! ### Register blocks -/

/-- V-MM-1, 2. -/
theorem test_capacities :
    answer .maxDeviceSlots State.reset = some (.word 64) ∧ answer .maxInterrupters State.reset = some (.word 8) ∧
      answer .maxPorts State.reset = some (.word 8) ∧ answer .maxScratchpadBuffers State.reset = some (.word 34) := by
  decide

/-- V-MM-3. -/
theorem test_maxScratchpadBuffers :
    answer .maxScratchpadBuffers { State.reset with cap := { State.reset.cap with hcsparams2 := 0xF8000000 } } =
        some (.word 31) ∧
      answer .maxScratchpadBuffers { State.reset with cap := { State.reset.cap with hcsparams2 := 0x03E00000 } } =
        some (.word 992) := by
  decide

theorem test_isHalted :
    answer .isHalted State.reset = some (.flag false) ∧
      answer .isHalted { State.reset with op := { State.reset.op with usbsts := 1 } } = some (.flag true) := by
  decide

/-- V-MM-4, rows 2 to 11 of P3: the writes, newest first, with the controller's two steps in between. -/
theorem test_resetXhc :
    (nextOf (Sys2Proof.core.run 5
        { State.reset with
          sw := { State.reset.sw with program := [.resetXhc] }
          supply := [0, 0, 0, 0, 0, 0, 0]
          hcSupply := [State.reset.hc]
          turns := [.cpu, .hc .halt, .cpu, .hc .resetComplete, .cpu] })).map
        (fun t => (t.sw.current, t.lifecycle, (t.trace.filter (fun a => a.kind == .write)).map fun a => a.value)) =
      some (none, .halted, [6, 4]) := by
  decide

/-- V-MM-5: no step of the controller, no end. -/
theorem test_resetXhc_holds : (nextOf (exec .resetXhc State.reset)).map holding = some true := by decide

/-- V-MM-11. -/
theorem test_startXhc :
    (nextOf (Sys2Proof.core.run 3
        { State.reset with
          op := { State.reset.op with usbcmd := 0, usbsts := 1 }
          sw := { State.reset.sw with program := [.startXhc] }
          turns := [.cpu, .hc .run, .cpu] })).map
        (fun t => (t.sw.current, t.lifecycle)) =
      some (none, .running) := by
  decide

/-- V-MM-7. -/
theorem test_setDcbaaPtr :
    (nextOf (exec (.setDcbaaPtr 0x202000) State.reset)).map (fun t => (t.op.dcbaap, t.trace)) =
      some
        (0x202000,
          [{ agent := .sw, kind := .write, loc := .reg .dcbaap, bytes := 8, value := 0x202000 }]) := by
  decide

/-- V-MM-8, with the controller halted. -/
theorem test_setCmdRingCtrl :
    (nextOf (exec (.setCmdRingCtrl 0x200001) { State.reset with op := { State.reset.op with usbsts := 1 } })).map
        (fun t => (t.op.crcr, t.hc.cmd.p, t.hc.cmd.ccs)) =
      some (0x200001, 0x200000, true) := by
  decide

/-- V-MM-8 as the word. -/
theorem test_crcrword :
    (nextOf (exec (.crcrword 0x8000) { State.reset with op := { State.reset.op with usbsts := 1 } })).map
        (fun t => (t.op.crcr, t.hc.cmd.p, t.hc.cmd.ccs)) =
      some (0x200001, 0x200000, true) := by
  decide

/-- V-MM-6. -/
theorem test_setNumDeviceSlots :
    (nextOf (exec (.setNumDeviceSlots 8) State.reset)).map (fun t => t.op.config) = some 0x308 := by
  decide

/-- V-MM-9. -/
theorem test_notify :
    (nextOf (exec (.notify 255 255 0xFFFF) State.reset)).map (fun t => t.trace.map fun a => (a.loc, a.bytes, a.value)) =
        some [(.reg (.doorbell 255), 4, 0xFFFF00FF)] ∧
      (nextOf (exec (.notify 0 0 0) State.reset)).map (fun t => t.hc.pending) = some [.command] := by
  decide

/-- V-MM-10. -/
theorem test_notify_refused :
    refusalOf (.notify 256 0 0) State.reset = some .doorbellIndex ∧
      refusalOf (.read (.mmio .db 0 4)) State.reset = some .doorbellRead := by
  decide

/-- S2. -/
theorem test_dbword :
    (nextOf (exec (.dbword 3 0 5) State.reset)).map (fun t => t.trace.map fun a => (a.loc, a.value)) =
      some [(.reg (.doorbell 3), 0x00050000)] := by
  decide

/-! ### Pinned memory and DCBAA -/

/-- V-PIN-1. -/
theorem test_pinnedNew :
    (nextOf (exec (.pinnedNew 0 256 4096 true) { State.reset with supply := [0x200000] })).map
        (fun t => (t.sw.result, t.pinned)) =
      some (.region 0x200000 256, [some { phys := 0x200000, size := 256 }]) := by
  decide

/-- V-PIN-2. -/
theorem test_pinnedNew_fatal :
    fatalOf (.pinnedNew 0 256 4096 true) { State.reset with supply := [1] } = some .dmaAlloc := by
  decide

/-- R230, R291, R294. -/
theorem test_addresses :
    answer (.pinnedPhysAddr (.buffer 0 14)) (trState 0 0 0) = some (.word 0x40E000) ∧
      answer (.getUncheckedMut .dcbaa) dcbaaState = some (.region 0x202000 2048) ∧
      fatalOf (.pinnedPhysAddr (.buffer 0 15)) (trState 0 0 0) = some .ringIndex := by
  decide

theorem test_dcbaaNew :
    (nextOf (exec .dcbaaNew { State.reset with supply := [0x202000] })).map (fun t => (t.sw.result, t.dcbaa)) =
      some (.region 0x202000 2048, some 0x202000) := by
  decide

/-- V-PIN-3. -/
theorem test_dcbaaSetEntry :
    (nextOf (exec (.dcbaaSetEntry 1 0x1234A000) dcbaaState)).map (fun t => t.mem) =
        some [(0x202009, 0xA0), (0x20200A, 0x34), (0x20200B, 0x12)] ∧
      (nextOf (exec (.dcbaaent 1 0x1234A000) dcbaaState)).map (fun t => t.mem) =
        some [(0x202009, 0xA0), (0x20200A, 0x34), (0x20200B, 0x12)] := by
  decide

/-- V-PIN-3, 4. -/
theorem test_dcbaaEntry :
    answer (.dcbaaEntry 1) { dcbaaState with mem := Memory.writeWord [] 0x202008 8 0x1234A000 } =
        some (.word 0x1234A000) ∧
      answer (.dcbaaEntry 2) dcbaaState = some (.word 0) ∧ refusalOf (.dcbaaSetEntry 256 0) dcbaaState = some .dcbaaIndex := by
  decide

/-! ### The controller -/

/-- P5, row 3. -/
theorem test_hc_command :
    (nextOf (exec (.enableSlotCmd (plain true 0))
        { runningState with
          supply := [0], serving := .hc .command, hc := { State.reset.hc with cmd := { p := 0x200000, ccs := true } } })).map
        (fun t => (t.hc.cmd.p, t.hc.unposted.map fun e => (e.param, trbTypeOf e))) =
      some (0x200010, [(0x200000, 33)]) := by
  decide

/-- P2, last paragraph: the Link at cycle 1 leads to the base and toggles. -/
theorem test_hc_link :
    (nextOf (exec (.link { plain true 0 with param := 0x200000, flags := 1 })
        { runningState with
          serving := .hc .command, hc := { State.reset.hc with cmd := { p := 0x2000F0, ccs := true } } })).map
        (fun t => t.hc.cmd) =
      some { p := 0x200000, ccs := false } := by
  decide

/-- P5, row 5: the event of row 3 is posted into slot 0 with cycle bit 1. -/
theorem test_hc_post :
    (nextOf (step
        { evState false with
          op := runningState.op
          hc :=
            { State.reset.hc with
              unposted := [{ param := 0x200000, status := 0x01000000, control := 0x01008400 }] }
          turns := [.hc .post] })).map
        (fun t => (t.mem.readTrb 0x201000, t.hc.q, t.hc.pcs, t.hasEvent)) =
      some ({ param := 0x200000, status := 0x01000000, control := 0x01008401 }, 1, true, true) := by
  decide

/-- R104: a Normal record with IDT = 1 carries its data in `param`; nothing is written there. -/
theorem test_hc_immediate :
    bringsData .standard { param := 0x100000, status := 8, control := 0x465 } = false ∧
      bringsData .standard { param := 0x100000, status := 8, control := 0x425 } = true := by
  decide

/-- R104, R316: bit 2 is ISP in a Data Stage that completes short, and not in a Setup Stage. -/
theorem test_hc_isp :
    reports .standard { param := 0, status := 8, control := 0x0C05 } 1 = true ∧
      reports .standard { param := 0, status := 8, control := 0x0C05 } 0 = false ∧
      reports .standard { param := 0, status := 8, control := 0x0845 } 1 = false ∧
      reports .standard { param := 0, status := 8, control := 0x0861 } 0 = true := by
  decide

/-- R76, R90: a misaligned base, overlapping register blocks are no launch of the block, nor is a Capability block without its registers. -/
theorem test_blocksPlaced :
    blocksPlaced State.reset = true ∧
      blocksPlaced { State.reset with cap := { State.reset.cap with dboff := 0x400 } } = false ∧
      blocksPlaced { State.reset with cap := { State.reset.cap with caplength := 0x18 } } = false ∧
      blocksPlaced { State.reset with cfg := { State.reset.cfg with mmioBase := 1 } } = false := by
  decide

/-- R332, R337: a record whose buffer is that of a slot software owns (slot 14, not armed) has nothing written. -/
theorem test_hc_owns_buffer :
    let s := { trState 13 13 0 with
      allocs := (trState 13 13 0).allocs ++ (List.range 15).map fun i => { base := bufferAt i, size := 4096, kind := .buffer } }
    dataByte s 0x300000 (bufferAt 12).toNat = true ∧ dataByte s 0x300000 (bufferAt 14).toNat = false := by
  decide +kernel

/-- R367: a handler that meets SW's lock holds, and keeps the CPU. -/
theorem test_handler_holds :
    (nextOf (exec (.fillRing 0)
        { trState 0 0 0 with
          handlerActive := true
          cpu := .ih
          transferRings := (trState 0 0 0).transferRings.map (Option.map fun r => { r with lock := .held .sw }) })).map
        (fun t => (holding t, (dispatch t).cpu)) =
      some (true, .ih) := by
  decide

/-- R275, R318: a handler that awaits a status bit lets SW step; when the bit is as awaited it goes on. -/
theorem test_handler_awaits :
    let s := { State.reset with
      op := { State.reset.op with usbcmd := 0, usbsts := 1 }
      handlerActive := true
      ih := { State.reset.ih with program := [.startXhc] }
      sw := { State.reset.sw with program := [.isHalted] } }
    (nextOf (Sys2Proof.core.run 2 { s with turns := [.cpu, .cpu] })).map (fun t => (t.cpu, t.sw.result)) =
        some (.sw, .flag true) ∧
      (nextOf (Sys2Proof.core.run 4 { s with turns := [.cpu, .hc .run, .cpu, .cpu] })).map
          (fun t => (t.handlerActive, t.sw.program)) =
        some (false, [.isHalted]) := by
  decide

/-- R315: two handlers of one run need not be alike. -/
theorem test_handlers_differ :
    let s := { evState true with handlerCode := [[.hasEvent], [.pop]] }
    (nextOf (Sys2Proof.core.run 4 { s with turns := [.handler, .cpu, .cpu, .handler] })).map (fun t => t.ih.program) =
      some [.pop] := by
  decide

/-- R232, R295: a dropped Transfer Ring is gone, and its address may be drawn again; the controller, which was told of
it as an endpoint's ring, and finds the buffer's address in its first record, may still reach both blocks. -/
theorem test_drop :
    let s : State := { trState 13 13 0 with
      allocs := (trState 13 13 0).allocs ++ [{ base := bufferAt 0, size := 4096, kind := .buffer }] }
    (nextOf (Sys2Proof.core.run 2 { s with turns := [.bindEndpoint 1 3 0, .drop (.ring (.transfer 0))] })).map
        (fun t => (t.transferRing? 0, t.allocs, t.stale, admissible t 256 4096 0x300000)) =
      some (none, [], s.allocs, true) := by
  decide +kernel

/-- R346, R368: dropped after a completed reset, the ring is out of the controller's reach. -/
theorem test_drop_after_reset :
    let s : State := { trState 13 13 0 with
      op := { State.reset.op with usbcmd := 2 }
      hcSupply := [State.reset.hc]
      supply := [0, 0, 0, 0, 0, 0, 0] }
    (nextOf (Sys2Proof.core.run 3
        { s with turns := [.bindEndpoint 1 3 0, .hc .resetComplete, .drop (.ring (.transfer 0))] })).map
        (fun t => (t.transferRing? 0, t.allocs, t.stale, dataByte t 0 0x300000)) =
      some (none, [], [], false) := by
  decide +kernel

/-- R82, R177: the event is posted after `pop` has read the control word; the words it has loaded are not used. -/
theorem test_pop_not_stale :
    let s := { evState false with
      op := runningState.op
      hc := { State.reset.hc with unposted := [{ param := 0x200000, status := 0x01000000, control := 0x01008400 }] }
      sw := { State.reset.sw with program := [.pop] } }
    (nextOf (Sys2Proof.core.run 4 { s with turns := [.access, .access, .hc .post, .cpu] })).map
        (fun t => (t.hasEvent, t.faulted)) =
      some (true, some .cycleMismatch) := by
  decide

/-- An endpoint with ring 0 of P4, the controller running; the blocks of the ring's buffers are not modelled here. -/
def endpointState : State :=
  { trState 13 13 0 with
    op := runningState.op
    hc := { State.reset.hc with endpoints := [{ slot := 1, endpoint := 3, ring := { p := 0x300000, ccs := true } }] } }

/-- R295: a Normal TRB fetched, its ring dropped, its buffer's block drawn again for something else: the byte is written
there. -/
theorem test_fetched_before_drop :
    let s := { endpointState with
      allocs := endpointState.allocs ++ [{ base := bufferAt 0, size := 4096, kind := .buffer }]
      turns := [.hc (.fetch 0), .drop (.ring (.transfer 0))] }
    let again := fun (t : State) => { t with
      allocs := { base := bufferAt 0, size := 2048, kind := .dcbaa } :: t.allocs
      supply := [1, 0x5A, 0]
      turns := [.hc (.complete 0)] }
    (nextOf (Sys2Proof.core.run 2 s)).map (fun t => (t.hc.held.map (·.addr), t.stale.length, t.allocs)) =
        some ([0x300000], 2, []) ∧
      ((nextOf (Sys2Proof.core.run 2 s)).bind fun t => nextOf (step (again t))).map
          (fun t => (t.mem.read 0x400000, t.hc.held.length, t.hc.unposted.map (·.param))) =
        some (0x5A, 0, [0x300000]) := by
  decide +kernel

/-! ### Witnesses: states and operands that meet the hypotheses of each obligation, clause by clause -/

/-- A transfer ring in the steady state of R231: 13 slots armed. -/
def steadyRing : TransferRing :=
  { ring := { phys := 0x300000, index := 13 }, deq := 0, cso := false, buffers := (List.range 15).map bufferAt,
    lock := .free }

def freshRing : TransferRing := { steadyRing with ring := { phys := 0x300000, index := 0 } }

/-- An unmarked state with an admissible answer of the allocator waiting. -/
def supplied (p : Word64) : State := { State.reset with supply := [p] }

theorem inv_of_one {s : State} {a : Alloc} (hm : s.mem.wf = true) (hb : blocksPlaced s = true) (ha : s.allocs = [a]) (hd : s.dbLocks = [])
    (he : ∀ e, s.eventRing = some e → e.unread ≤ Config.ringLen) (ho : AllocOk s a) : s.Inv := by
  refine ⟨hm, hb, ?_, ?_, ?_, he⟩
  · intro b hb
    rw [ha, List.mem_singleton] at hb
    exact hb ▸ ho
  · rw [ha]
    exact List.pairwise_singleton _ _
  · rw [hd]
    exact List.nodup_nil

theorem wordState_inv (v : Word64) (n : Nat) : (wordState v n).Inv :=
  inv_of_one (a := { base := 0x100000, size := 16, kind := .other })
    (Memory.writeWord_wf rfl _ _ _) (show blocksPlaced State.reset = true by decide) rfl rfl (by rintro e ⟨⟩)
    (show AllocOk State.reset _ from ⟨by decide, trivial, by decide, by decide, by decide⟩)

theorem evState_inv (posted : Bool) : (evState posted).Inv :=
  inv_of_one (a := { base := 0x201000, size := 256, kind := .ring })
    (by cases posted <;> decide) (show blocksPlaced State.reset = true by decide) rfl rfl (by rintro e ⟨⟩; cases posted <;> decide)
    (show AllocOk State.reset _ from ⟨by decide, by decide, by decide, by decide, by decide⟩)

theorem cmdState_producer (i : Fin 16) (h : i = 0 ∨ i = 14) :
    ProducerRing (cmdState i).mem { phys := 0x200000, index := i } false := by
  unfold ProducerRing
  rcases h with rfl | rfl <;> decide +kernel

theorem trState_ok : TransferRingOk (trState 13 13 0) 0 := by
  refine ⟨steadyRing, rfl, rfl, ?_, rfl, rfl, ?_⟩
  · unfold ProducerRing
    decide +kernel
  · intro j hj
    refine ⟨4096, by decide, ?_⟩
    revert j
    decide +kernel

theorem witness_DecodeOfEncodeIsIdentity :
    Layout.standard.codesOk = true ∧ encode .standard (.normal { param := 0x12345000, status := 0x1000, cycle := false, flags := 0x12, mid := 0, slot := 0 }) =
      some (.trb, [0x00, 0x50, 0x34, 0x12, 0, 0, 0, 0, 0x00, 0x10, 0, 0, 0x24, 0x04, 0, 0]) := by
  decide

/-- A layout with two command codes exchanged. -/
def otherLayout : Layout :=
  { Layout.standard with typeCodes := (Layout.standard.typeCodes.set 9 10).set 10 9 }

theorem witness_FormatsAdmitExactlyTheirWords :
    otherLayout.codesOk = true ∧ decode otherLayout (.dbword 3) [0, 0, 5, 0] = .ok (.dbword 3 0 5) :=
  ⟨by decide, rfl⟩

theorem witness_TypeFieldAloneSelectsTheRecord :
    recordOf 63 (plain true 1) = recordOf 63 (plain true 1) ∧ otherLayout.codesOk = true ∧
      otherLayout.kindOf 10 = otherLayout.kindOf 10 := by
  decide

/-- Operands at the ends of their ranges, and one beyond each. -/
theorem witness_SetupStageTrbNewReturnsTheRecord :
    Unmarked State.reset ∧ StandardLayout State.reset ∧ (255 < 2 ^ 8 ∧ 255 < 2 ^ 8 ∧ 65535 < 2 ^ 16 ∧ 65535 < 2 ^ 16 ∧ 65535 < 2 ^ 16) ∧
      ¬(255 < 2 ^ 8 ∧ 255 < 2 ^ 8 ∧ 65535 < 2 ^ 16 ∧ 65535 < 2 ^ 16 ∧ 65536 < 2 ^ 16) := by
  decide

theorem witness_TransferConstructorsReturnTheRecords :
    Unmarked State.reset ∧ StandardLayout State.reset ∧ 2 ^ 64 - 1 < 2 ^ 64 ∧ 131071 < 2 ^ 17 ∧ State.reset.cfg.dataIoc = true ∧
      State.reset.cfg.dataIsp = false ∧ State.reset.cfg.statusIoc = true ∧
      ¬(2 ^ 64 - 1 < 2 ^ 64 ∧ 131072 < 2 ^ 17) := by
  decide

/-- Types 9 and 25 are inside, 8 and 26 outside; a slot id of 256 is too wide. -/
theorem witness_CommandTrbNewReturnsTheRecord :
    Unmarked State.reset ∧ 9 ≤ 9 ∧ 25 ≤ 25 ∧ 255 < 2 ^ 8 ∧ 2 ^ 64 - 1 < 2 ^ 64 ∧ ¬(9 ≤ 8 ∧ 8 ≤ 25) ∧
      ¬(9 ≤ 26 ∧ 26 ≤ 25) ∧ ¬(256 < 2 ^ 8 ∧ 0 < 2 ^ 64) := by
  decide

theorem witness_ConstructorLaws :
    State.reset.cfg.layout = .standard ∧ normalTrb .standard 1 2 = normalTrb .standard 1 2 ∧ linkTrb 1 = linkTrb 1 ∧
      setupTrb .standard 1 2 3 4 5 = setupTrb .standard 1 2 3 4 5 ∧
      dataTrb State.reset.cfg true 1 2 = dataTrb State.reset.cfg true 1 2 ∧ commandTrb 9 1 2 = commandTrb 9 1 2 := by
  decide

/-- Length fields at the ends of their type ranges: 32, 39; 1, 8; 0, 9, 31, 40. -/
theorem witness_AccessorsOfAValue :
    Unmarked State.reset ∧ StandardLayout State.reset ∧
      (let n := ((0x00008000 : Word32).extractLsb' 10 6).toNat; 32 ≤ n ∧ n ≤ 39) ∧
      (let n := ((0x00009C00 : Word32).extractLsb' 10 6).toNat; 32 ≤ n ∧ n ≤ 39) ∧
      (let n := ((0x00000400 : Word32).extractLsb' 10 6).toNat; 1 ≤ n ∧ n ≤ 8) ∧
      (let n := ((0x00002000 : Word32).extractLsb' 10 6).toNat; 1 ≤ n ∧ n ≤ 8) ∧
      ([0x0, 0x2400, 0x7C00, 0xA000] : List Word32).all (fun c =>
        let n := (c.extractLsb' 10 6).toNat; decide (¬(32 ≤ n ∧ n ≤ 39) ∧ ¬(1 ≤ n ∧ n ≤ 8))) = true := by
  decide

theorem witness_ClassifyIsTheTypeCodeMap :
    Unmarked State.reset ∧
      (9 ≤ (9 : BitVec 6).toNat ∧ (25 : BitVec 6).toNat ≤ 25) ∧ (32 ≤ (32 : BitVec 6).toNat ∧ (39 : BitVec 6).toNat ≤ 39) ∧
      (26 ≤ (26 : BitVec 6).toNat ∧ (31 : BitVec 6).toNat ≤ 31) ∧ 48 ≤ (48 : BitVec 6).toNat := by
  decide

/-- The Link in slot 15 has a length field of transfer TRBs; the event in slot 0 of the Event Ring one of events. -/
theorem witness_AccessorsOfASlot :
    (Unmarked (cmdState 0) ∧ StandardLayout (cmdState 0) ∧
      (cmdState 0).ring? .command = some { phys := 0x200000, index := 0 } ∧
      RingBuf.Placed { phys := 0x200000, index := 0 } ∧ 15 < 16 ∧
      (let n := ((slotTrb (cmdState 0).mem 0x200000 15).control.extractLsb' 10 6).toNat; 1 ≤ n ∧ n ≤ 8)) ∧
    LockFree (cmdState 0) .command ∧ LockFree (trState 0 0 0) (.transfer 0) ∧
    Unmarked (evState true) ∧ (evState true).ring? .event = some { phys := 0x201000, index := 0 } ∧
      LockFree (evState true) .event ∧
      (let n := ((slotTrb (evState true).mem 0x201000 0).control.extractLsb' 10 6).toNat; 32 ≤ n ∧ n ≤ 39) := by
  refine ⟨by decide, trivial, rfl, by decide, rfl, trivial, by decide⟩

theorem witness_RingIndexOutOfRangeIsFatal :
    Unmarked (trState 0 0 0) ∧ (trState 0 0 0).ring? (.transfer 0) = some { phys := 0x300000, index := 0 } ∧
      LockFree (trState 0 0 0) (.transfer 0) ∧ 16 ≤ 16 :=
  ⟨⟨rfl, rfl⟩, rfl, rfl, by decide⟩

theorem witness_StoreAndSetCycleState :
    Unmarked (cmdState 0) ∧ (cmdState 0).ring? .command = some { phys := 0x200000, index := 0 } ∧
      RingBuf.Placed { phys := 0x200000, index := 0 } ∧ 15 < 16 ∧ LockFree (cmdState 0) .command ∧
      (cmdState 0).mem.wf = true :=
  ⟨⟨rfl, rfl⟩, rfl, by decide, by decide, trivial, by decide⟩

theorem witness_StoreAndLoadOrder :
    Unmarked (cmdState 0) ∧ (cmdState 0).ring? .command = some { phys := 0x200000, index := 0 } ∧ 15 < 16 ∧
      LockFree (cmdState 0) .command ∧ (cmdState 0).cfg.split64 = false :=
  ⟨⟨rfl, rfl⟩, rfl, by decide, trivial, rfl⟩

/-- The last word of the allocation, the first address beyond it, and a misaligned one; a word of 8 bytes where the
storage has 4. -/
theorem witness_MemoryWordsResolve :
    (wordState 0 4).Inv ∧ Unmarked (wordState 0 4) ∧
      ({ base := 0x100000, size := 16, kind := .other } : Alloc) ∈ (wordState 0 4).allocs ∧
      (0x100000 : Addr).toNat ≤ (0x10000C : Addr).toNat ∧ (0x10000C : Addr).toNat + 4 ≤ (0x100000 : Addr).toNat + 16 ∧
      (0x10000C : Addr).toNat % 4 = 0 ∧ (0x10000D : Addr).toNat % 4 ≠ 0 ∧
      (∀ l ∈ (wordState 0 4).allocs,
        ¬(l.base.toNat ≤ (0x100010 : Addr).toNat ∧ (0x100010 : Addr).toNat + 4 ≤ l.base.toNat + l.size)) ∧
      (evState true).Inv ∧ storageWidth .ring ((0x201008 : Addr).toNat - (0x201000 : Addr).toNat) = some 4 ∧
      ¬(3 = 1 ∨ 3 = 2 ∨ 3 = 4 ∨ 3 = 8) :=
  ⟨wordState_inv 0 4, ⟨rfl, rfl⟩, by decide, by decide, by decide, by decide, by decide, by decide, evState_inv true,
    by decide, by decide⟩

theorem witness_BitfieldOperationsOnMemory :
    Unmarked (wordState 0x340 4) ∧ (wordState 0x340 4).Inv ∧
      (∀ u, resolve (wordState 0x340 4) u (.dma 0x100000 4) = .ok (.dma 0x100000)) ∧ 24 + 8 ≤ 8 * 4 ∧
      (wordState 0x340 4).cfg.split64 = false :=
  ⟨⟨rfl, rfl⟩, wordState_inv _ _, fun _ => rfl, by decide, rfl⟩

theorem witness_WriteBitsThenReadBits :
    Unmarked (wordState 0x340 8) ∧ (wordState 0x340 8).Inv ∧
      (∀ u, resolve (wordState 0x340 8) u (.dma 0x100000 8) = .ok (.dma 0x100000)) ∧ 0 + 64 ≤ 8 * 8 :=
  ⟨⟨rfl, rfl⟩, wordState_inv _ _, fun _ => rfl, by decide⟩

theorem witness_SpanOutsideTheWordIsFatal :
    Unmarked (wordState 0 4) ∧ 8 * wordSize w32 < 31 + 2 ∧
      resolve (wordState 0 4) { reads := true, writes := false } w32 = .ok (.dma 0x100000) ∧
      resolve (wordState 0 4) { reads := true, writes := true } w32 = .ok (.dma 0x100000) :=
  ⟨⟨rfl, rfl⟩, by decide, rfl, rfl⟩

theorem witness_RegisterReadsAndCapacities :
    Unmarked State.reset ∧ StandardLayout State.reset ∧ 0x47C % 4 = 0 ∧ 0x47C < opSize State.reset ∧
      0x47C ∉ [0x00, 0x04, 0x08, 0x14, 0x18, 0x1C, 0x30, 0x34, 0x38] := by
  decide

theorem witness_BitfieldOperationsOnRegisters : Unmarked State.reset ∧ StandardLayout State.reset ∧ 0 + 32 ≤ 32 := by decide

/-- Each clause: the last Doorbell register, the last Capability register, a misaligned offset, a register of another
width in each block, an offset with no register, and no width at all. -/
theorem witness_ForbiddenAccessesAreRefused :
    Unmarked State.reset ∧ StandardLayout State.reset ∧ 255 < State.reset.cfg.numDoorbells ∧
      capReg State.reset.cfg.layout 0x1C = some (.hccparams2, 4) ∧ (2 = 1 ∨ 2 = 2 ∨ 2 = 4 ∨ 2 = 8) ∧ 1 % 2 ≠ 0 ∧
      (regAt State.reset .op 0x1C = some (.crcr, 8) ∧ 0x1C % 4 = 0 ∧ 4 ≠ 8) ∧
      (regAt State.reset .cap 0x20 = none ∧ 0x20 % 4 = 0) ∧ ¬(3 = 1 ∨ 3 = 2 ∨ 3 = 4 ∨ 3 = 8) := by
  decide

/-- A new place, and one to be replaced. -/
theorem witness_TrbRingNewMakesAnEmptyRing :
    Unmarked (supplied 0x300000) ∧ (supplied 0x300000).mem.wf = true ∧
      admissible (supplied 0x300000) 256 4096 (supplied 0x300000).draw.1 = true ∧
      0 ≤ (supplied 0x300000).bareRings.length ∧
      admissible { bareState with supply := [0x301000] } 256 4096
        ({ bareState with supply := [0x301000] } : State).draw.1 = true ∧ 0 ≤ bareState.bareRings.length := by
  decide

/-- Index 15 is inside, 16 outside. -/
theorem witness_SlotsAndAddresses :
    Unmarked (trState 0 0 0) ∧ (trState 0 0 0).ring? (.transfer 0) = some { phys := 0x300000, index := 0 } ∧
      LockFree (trState 0 0 0) (.transfer 0) ∧ (15 < 16 ∧ 16 ≤ 16) ∧
      (trState 0 0 0).transferRing? 0 = some freshRing ∧ Unmarked (cmdState 0) ∧
      (cmdState 0).ring? .command = some { phys := 0x200000, index := 0 } ∧ LockFree (cmdState 0) .command :=
  ⟨⟨rfl, rfl⟩, rfl, rfl, by decide, rfl, ⟨rfl, rfl⟩, rfl, trivial⟩

theorem witness_AdvanceIndexHandsTheSlotOver :
    Unmarked bareState ∧ bareState.ring? (.bare 0) = some { phys := 0x300000, index := 0 } ∧
      RingBuf.Placed { phys := 0x300000, index := 0 } ∧ LockFree bareState (.bare 0) ∧ bareState.mem.wf = true ∧
      slotCycle bareState.mem 0x300000 0 ≠ true ∧ slotCycle bareState.mem 0x300000 0 = false :=
  ⟨⟨rfl, rfl⟩, rfl, by decide, trivial, rfl, by decide, by decide⟩

theorem witness_AdvanceIndexNotoggleWritesNothing :
    Unmarked bareState ∧ bareState.ring? (.bare 0) = some { phys := 0x300000, index := 0 } ∧
      LockFree bareState (.bare 0) ∧ slotCycle bareState.mem 0x300000 0 = false ∧
      slotCycle bareState.mem 0x300000 0 ≠ true :=
  ⟨⟨rfl, rfl⟩, rfl, trivial, by decide, by decide⟩

theorem witness_RingResetClearsCycleBits :
    Unmarked bareState ∧ bareState.ring? (.bare 0) = some { phys := 0x300000, index := 0 } ∧
      RingBuf.Placed { phys := 0x300000, index := 0 } ∧ bareState.mem.wf = true := by
  decide

theorem witness_SetLinkTrbInstallsTheLink :
    Unmarked bareState ∧ bareState.ring? (.bare 0) = some { phys := 0x300000, index := 0 } ∧
      RingBuf.Placed { phys := 0x300000, index := 0 } ∧ LockFree bareState (.bare 0) ∧ bareState.mem.wf = true :=
  ⟨⟨rfl, rfl⟩, rfl, by decide, trivial, rfl⟩

/-- The cursor on the Link slot, and on another slot. -/
theorem witness_SkipLinkPassesTheLinkSlot :
    Unmarked (cmdState 15) ∧ (cmdState 15).ring? (ownerRing .command) = some { phys := 0x200000, index := 15 } ∧
      (cmdState 15).cso? .command = some false ∧ RingBuf.Placed { phys := 0x200000, index := 15 } ∧
      LockFree (cmdState 15) (ownerRing .command) ∧ (cmdState 15).mem.wf = true ∧
      trbTypeOf (slotTrb (cmdState 15).mem 0x200000 15) = 6 ∧ slotCycle (cmdState 15).mem 0x200000 15 = false ∧
      trbTypeOf (slotTrb (cmdState 14).mem 0x200000 14) ≠ 6 :=
  ⟨⟨rfl, rfl⟩, rfl, rfl, by decide, trivial, by decide, by decide, by decide, by decide⟩

theorem witness_CommandRingNewInstallsTheLink :
    Unmarked (supplied 0x200000) ∧ (supplied 0x200000).mem.wf = true ∧
      admissible (supplied 0x200000) 256 4096 (supplied 0x200000).draw.1 = true := by
  decide

theorem witness_CommandRingResetResetsRingAndFlag :
    Unmarked (cmdState 14) ∧
      (cmdState 14).cmdRing = some { ring := { phys := 0x200000, index := 14 }, cso := false } ∧
      RingBuf.Placed { phys := 0x200000, index := 14 } ∧ (cmdState 14).mem.wf = true := by
  decide

/-- The first slot, and the last usable one, after which the Link is passed. -/
theorem witness_PushPublishesTheCommand (i : Fin 16) (h : i = 0 ∨ i = 14) :
    Unmarked (cmdState i) ∧ (cmdState i).cmdRing = some { ring := { phys := 0x200000, index := i }, cso := false } ∧
      ProducerRing (cmdState i).mem { phys := 0x200000, index := i } false ∧ (cmdState i).mem.wf = true ∧
      trbTypeOf (commandTrb 23 0 0) ≠ 6 := by
  refine ⟨⟨rfl, rfl⟩, rfl, cmdState_producer i h, ?_, by decide⟩
  rcases h with rfl | rfl <;> decide

theorem witness_ThirtyPushesRestoreParity :
    (List.replicate 30 (commandTrb 23 0 0)).length = 30 ∧
      (∀ x ∈ List.replicate 30 (commandTrb 23 0 0), trbTypeOf x ≠ 6) ∧ Unmarked (cmdState 0) ∧
      (cmdState 0).mem.wf = true ∧
      (cmdState 0).cmdRing = some { ring := { phys := 0x200000, index := 0 }, cso := false } ∧
      ProducerRing (cmdState 0).mem { phys := 0x200000, index := 0 } false := by
  refine ⟨rfl, ?_, ⟨rfl, rfl⟩, by decide, rfl, cmdState_producer 0 (.inl rfl)⟩
  intro x hx
  rw [List.eq_of_mem_replicate hx]
  decide

/-- The buffers of P4. -/
def trBuffers : List Addr := (List.range 15).map bufferAt

/-- The state before V-TR-1: the sixteen answers of the allocator. -/
def beforeTr : State := { State.reset with supply := 0x300000 :: trBuffers }

theorem bufferAt_toNat (i : Nat) (h : i < 15) : (bufferAt i).toNat = 0x400000 + 4096 * i := by
  have hb : (0x400000 : Addr).toNat = 0x400000 := rfl
  rw [bufferAt, BitVec.toNat_add, hb, BitVec.toNat_ofNat]
  omega

theorem witness_TransferRingNewPopulatesEverySlot :
    Unmarked beforeTr ∧ StandardLayout beforeTr ∧ beforeTr.mem.wf = true ∧ 0 ≤ beforeTr.transferRings.length ∧
      beforeTr.cfg.trTransferLen ≤ 4096 ∧
      beforeTr.supply = 0x300000 :: (trBuffers ++ []) ∧ trBuffers.length = 15 ∧ admissible beforeTr 256 4096 0x300000 = true ∧
      (∀ b ∈ trBuffers, admissible beforeTr 4096 4096 b = true) ∧
      (∀ b ∈ trBuffers, apart (0x300000 : Addr).toNat 256 b.toNat 4096 = true) ∧
      trBuffers.Pairwise (fun a b => apart a.toNat 4096 b.toNat 4096 = true) ∧
      4096 < ({ beforeTr with cfg := { beforeTr.cfg with trTransferLen := 4097 } } : State).cfg.trTransferLen := by
  refine ⟨⟨rfl, rfl⟩, rfl, rfl, by decide, by decide, rfl, rfl, by decide, ?_, ?_, ?_, by decide⟩
  · exact List.all_eq_true.mp (by decide)
  · exact List.all_eq_true.mp (by decide)
  · rw [trBuffers, List.pairwise_map]
    refine List.pairwise_lt_range.imp_of_mem fun {i j} hi hj hij => ?_
    rw [apart, bufferAt_toNat i (List.mem_range.mp hi), bufferAt_toNat j (List.mem_range.mp hj)]
    simp only [Bool.or_eq_true, decide_eq_true_eq]
    omega

/-- The ring of V-TR-1, and the ring after the first `fill_ring`. -/
theorem witness_FillRingArmsUpToTheMargin :
    Unmarked (trState 0 0 0) ∧ (trState 0 0 0).mem.wf = true ∧ (trState 0 0 0).transferRing? 0 = some freshRing ∧
      freshRing.ring.Placed ∧ freshRing.ring.index = 0 ∧ freshRing.deq = 0 ∧ freshRing.cso = false ∧
      freshRing.lock = .free ∧ freshRing.buffers.length = 15 ∧ 4096 ≤ 4096 ∧
      (∀ j, j < 15 →
        slotTrb (trState 0 0 0).mem 0x300000 j =
          { param := freshRing.buffers.getD j 0, status := BitVec.ofNat 32 4096, control := 0x00000424 }) ∧
      slotTrb (trState 0 0 0).mem 0x300000 15 = linkRecord 0x300000 false ∧ Unmarked (trState 13 13 0) ∧
      TransferRingOk (trState 13 13 0) 0 := by
  refine ⟨⟨rfl, rfl⟩, by decide +kernel, rfl, by decide, rfl, rfl, rfl, rfl, rfl, by decide, by decide +kernel,
    by decide +kernel, ⟨rfl, rfl⟩, trState_ok⟩

/-- The right address is 0x300000 (slot 0), any other is not. -/
theorem witness_DequeueTrbRearmsOneSlotOrIsFatal :
    Unmarked (trState 13 13 0) ∧ (trState 13 13 0).mem.wf = true ∧
      (trState 13 13 0).transferRing? 0 = some steadyRing ∧ TransferRingOk (trState 13 13 0) 0 ∧
      steadyRing.lock = .free ∧
      (0x300010 : Addr) ≠ steadyRing.ring.phys + BitVec.ofNat 64 (16 * steadyRing.deq.val) :=
  ⟨⟨rfl, rfl⟩, by decide +kernel, rfl, trState_ok, rfl, by decide⟩

/-- A slot that is ours, and one that is not. -/
theorem witness_EventRingResetHasEventAndPop :
    Unmarked (evState true) ∧
      (evState true).eventRing = some { ring := { phys := 0x201000, index := 0 }, cso := true, unread := 1 } ∧
      RingBuf.Placed { phys := 0x201000, index := 0 } ∧ (evState true).mem.wf = true ∧
      slotCycle (evState true).mem 0x201000 0 = true ∧ slotCycle (evState false).mem 0x201000 0 ≠ true := by
  decide

/-- SW alone, a handler alone; a controller that runs, and one that is halted. -/
theorem witness_StartXhcRunsTheController :
    Unmarked State.reset ∧ StandardLayout State.reset ∧ Alone State.reset ∧
      Alone { State.reset with handlerActive := true, cpu := .ih } ∧ State.reset.op.usbsts.getLsbD 0 = false ∧
      ({ State.reset.op with usbcmd := 0, usbsts := 1 } : OpRegs).usbsts.getLsbD 0 = true ∧
      ({ State.reset.op with usbcmd := 0, usbsts := 1 } : OpRegs).usbcmd.getLsbD 1 = false := by
  decide

theorem witness_ResetXhcResetsTheController :
    Unmarked State.reset ∧ StandardLayout State.reset ∧ Alone State.reset ∧ State.reset.op.usbsts.getLsbD 0 = false ∧
      (1 : Word32).getLsbD 0 = true := by
  decide

theorem witness_SettersWriteTheirRegisters :
    Unmarked State.reset ∧ StandardLayout State.reset ∧ halted .standard State.reset.op.usbsts = false ∧
      halted .standard (1 : Word32) = true ∧ State.reset.cfg.split64 = false := by
  decide

/-- Register 255 is inside, 256 outside; the Command Ring, a known endpoint, an unknown one. -/
theorem witness_NotifyWritesOneDoorbellWord :
    let e : HcEndpoint := { slot := 1, endpoint := 3, ring := { p := 0, ccs := true } }
    let s : State := { State.reset with hc := { State.reset.hc with endpoints := [e] } }
    Unmarked s ∧ StandardLayout s ∧ 255 < 256 ∧ 65535 < 65536 ∧ 255 < s.cfg.numDoorbells ∧ s.lock? (.doorbell 255) = some .free ∧
      s.hc.endpoints[0]? = some e ∧ e.slot.toNat = 1 ∧ e.endpoint.toNat = 3 ∧
      (∀ x ∈ s.hc.endpoints, ¬(255 ≠ 0 ∧ x.slot.toNat = 255 ∧ x.endpoint.toNat = 255)) ∧
      ¬(256 < 256 ∧ 65535 < 65536) ∧ s.cfg.numDoorbells ≤ 256 := by
  decide

/-- A doorbell lock, a ring lock, and an agent that holds. -/
theorem witness_HeldLockIsWaitedFor :
    let d : State := { State.reset with dbLocks := [(0, .ih)] }
    let r : State := { trState 0 0 0 with transferRings := [some { freshRing with lock := .held .sw }] }
    Unmarked d ∧ 0 < d.cfg.numDoorbells ∧ d.lock? (.doorbell 0) = some (.held .ih) ∧ Unmarked r ∧
      r.lock? (.ring 0) = some (.held .sw) ∧
      (let op : Pending := { instr := .notify 0 0 0, answers := [.unit], awaits := none }
      let h := dispatch { d with sw := { d.sw with current := some op }, turns := [] }
      h.ctx.current = some op ∧ holding h = true) := by
  decide

/-- An admissible answer, and one that is not. -/
theorem witness_PinnedNewAllocatesOrIsFatal :
    Unmarked (supplied 0x200000) ∧ 0 ≤ (supplied 0x200000).pinned.length ∧ 0 < 256 ∧ (supplied 0x200000).mem.wf = true ∧
      admissible (supplied 0x200000) 256 (max 64 4096) (supplied 0x200000).draw.1 = true ∧
      admissible (supplied 0x200800) 256 (max 64 4096) (supplied 0x200800).draw.1 = false ∧
      admissible (supplied 0x200800) 256 4096 (supplied 0x200800).draw.1 = false ∧
      admissible (supplied 0x200800) 2048 4096 (supplied 0x200800).draw.1 = false ∧
      (supplied 0x200800).cfg.trTransferLen ≤ 4096 := by
  decide

/-- Buffer 14 is inside, 15 outside. -/
theorem witness_AddressesOfAllocations :
    Unmarked (trState 0 0 0) ∧ (trState 0 0 0).transferRing? 0 = some freshRing ∧ freshRing.lock = .free ∧
      freshRing.buffers[14]? = some 0x40E000 ∧ freshRing.buffers.length = 15 ∧ 15 ≤ 15 ∧
      (trState 0 0 0).ring? (.transfer 0) = some { phys := 0x300000, index := 0 } ∧ dcbaaState.dcbaa = some 0x202000 ∧
      ({ State.reset with pinned := [some { phys := 0x200000, size := 256 }] } : State).pinnedBuf? 0 =
        some { phys := 0x200000, size := 256 } := by
  decide

/-- Entry 255 is inside, 256 outside. -/
theorem witness_DcbaaEntriesAreStoredAndRead :
    Unmarked dcbaaState ∧ dcbaaState.mem.wf = true ∧ dcbaaState.dcbaa = some 0x202000 ∧
      (0x202000 : Addr).toNat + 2048 ≤ 2 ^ 64 ∧ (255 < 256 ∧ 256 ≤ 256) ∧
      admissible (supplied 0x202000) 2048 4096 (supplied 0x202000).draw.1 = true := by
  decide

/-- A ring with one record handed over that is about to be pushed again, and a `dequeue_trb` of another address. -/
theorem witness_ChecksComeBeforeWrites :
    let s := { cmdState 1 with cmdRing := some { ring := { phys := 0x200000, index := 0 }, cso := false } }
    Unmarked s ∧ fatalOf (.push (commandTrb 9 0 1)) s = some .cycleUnchanged ∧
      RingBuf.Placed { phys := 0x200000, index := 0 } ∧ s.mem.wf = true ∧ slotCycle s.mem 0x200000 0 ≠ false ∧
      Unmarked (trState 14 14 1) ∧ fatalOf (.dequeueTrb 0 0x300000) (trState 14 14 1) = some .dequeueAddr ∧
      Unmarked (supplied 1) ∧ fatalOf (.transferRingNew 0) (supplied 1) = some .dmaAlloc :=
  ⟨⟨rfl, rfl⟩, by decide +kernel, by decide, by decide +kernel, by decide +kernel, ⟨rfl, rfl⟩, by decide, ⟨rfl, rfl⟩,
    by decide⟩

/-- Between operations, and in the middle of one; the block of the ring is live, out of the controller's reach, and
in it. -/
theorem witness_DroppedOwnersFreeTheirBlocks :
    let s := evState true
    let busy := { s with sw := { s.sw with current := some { instr := .hasEvent, answers := [], awaits := none } } }
    Unmarked s ∧ (dispatch { s with turns := [] }).ctx.current = none ∧
      (dispatch { busy with turns := [] }).ctx.current ≠ none ∧ s.Inv ∧
      ({ base := 0x201000, size := 256, kind := .ring } : Alloc) ∈ s.allocs ∧
      (0x201000 : Addr) ∈ ownedBlocks (.ring .event) s ∧ s.hc.known = [] ∧ s.hc.held = [] ∧
      inReach { s with hc := { s.hc with known := [0x201000] } } { base := 0x201000, size := 256, kind := .ring } = true :=
  ⟨⟨rfl, rfl⟩, rfl, by decide, evState_inv true, by decide, by decide, rfl, rfl,
    inReach_of_known (List.mem_singleton_self _) (by decide)⟩

theorem witness_RecordValueIsRead :
    Unmarked State.reset ∧ State.reset.serving = .value ∧ StandardLayout State.reset := by
  decide

/-- A command with the ring's cycle state, one without, and a Link. -/
theorem witness_ControllerConsumesRecords :
    let s : State := { runningState with serving := .hc .command }
    s.serving = .hc .command ∧ StandardLayout s ∧ hcRing? s.hc .command = some { p := 0, ccs := true } ∧ (plain true 0).cycle = true ∧
      (plain false 0).cycle ≠ true ∧ (9 : BitVec 6) ≠ 6 := by
  decide

/-- An endpoint, its ring in `runningState`, a record that points into a live data allocation, and one that carries its
data; and the same record fetched before, its endpoint given another ring. -/
theorem witness_NormalRecordTransfersData :
    let e : HcEndpoint := { slot := 1, endpoint := 3, ring := { p := 0x300000, ccs := true } }
    let s : State :=
      { wordState 0 4 with
        op := runningState.op, serving := .hc (.endpoint 0), hc := { State.reset.hc with endpoints := [e] } }
    let r : Rec := { plain true 0 with param := 0x100000, status := 16 }
    let h : HeldTrb := { owner := none, slot := 1, endpoint := 3, addr := 0x300000, trb := trbOf .standard 1 r }
    ExecutesTransfer s r.cycle 0x300000 1 3 [{ e with ring := { p := 0x300010, ccs := true } }] ∧
      ExecutesTransfer { s with serving := .held h } r.cycle 0x300000 1 3 [e] ∧
      StandardLayout s ∧ s.mem.wf = true ∧
      16 ≤ (r.status.extractLsb' 0 17).toNat ∧ r.flags.getLsbD 5 = false ∧
      (∀ a, r.param.toNat ≤ a → a < r.param.toNat + 16 → dataByte s 0x300000 a = true) ∧
      ({ r with flags := 0x20 } : Rec).flags.getLsbD 5 = true := by
  refine ⟨.inl ⟨0, _, rfl, rfl, rfl, rfl, rfl, rfl, rfl⟩, .inr ⟨_, rfl, rfl, rfl, rfl, rfl⟩, rfl, rfl, by decide, rfl, ?_,
    rfl⟩
  intro a ha hb
  have h1 : (0x100000 : Addr).toNat = 1048576 := rfl
  have h2 : 1048576 ≤ a := ha
  have h3 : a < 1048576 + 16 := hb
  simp [dataByte, Alloc.has, wordState, h2, h3]

/-- A Status Stage record with IOC on an endpoint's ring, consumed, and held with its endpoint's pointer on it. -/
theorem witness_OtherTransferRecordsComplete :
    let e : HcEndpoint := { slot := 1, endpoint := 3, ring := { p := 0x300000, ccs := true } }
    let moved : List HcEndpoint := [{ e with ring := { p := 0x300010, ccs := true } }]
    let s : State :=
      { runningState with serving := .hc (.endpoint 0), hc := { State.reset.hc with endpoints := [e] } }
    let r : Rec := { plain true 0 with flags := 0x10 }
    let h : HeldTrb := { owner := some 0, slot := 1, endpoint := 3, addr := 0x300000, trb := trbOf .standard 4 r }
    ExecutesTransfer s r.cycle 0x300000 1 3 moved ∧ ExecutesTransfer { s with serving := .held h } r.cycle 0x300000 1 3 moved ∧
      StandardLayout s ∧ (4 : BitVec 6) ≠ 6 ∧
      (4 : BitVec 6) ≠ 1 ∧ s.mem.wf = true ∧ r.flags.getLsbD 4 = true ∧
      (1 ≤ (8 : BitVec 6).toNat ∧ (8 : BitVec 6).toNat ≤ 8) ∧ ¬(9 : BitVec 6).toNat ≤ 8 ∧
      ({ r with flags := 2 } : Rec).flags.getLsbD 1 = true ∧
      ¬((4 : BitVec 6) = 3 ∧ r.mid.getLsbD 0 = true ∧ r.flags.getLsbD 5 = false) :=
  ⟨.inl ⟨0, _, rfl, rfl, rfl, rfl, rfl, rfl, rfl⟩, .inr ⟨_, rfl, rfl, rfl, rfl, rfl⟩, rfl, by decide, by decide, rfl, by decide,
    by decide, by decide, by decide, by decide⟩

/-- Room in the ring, and a full ring. -/
theorem witness_PostStepWritesOneEvent :
    let t : Trb := { param := 0x200000, status := 0x01000000, control := 0x01008400 }
    let s : State :=
      { evState false with op := runningState.op, hc := { State.reset.hc with unposted := [t] } }
    let e : EventRing := { ring := { phys := 0x201000, index := 0 }, cso := true, unread := 0 }
    s.eventRing = some e ∧ e.ring.Placed ∧ insideLive s (slotAt e.ring.phys s.hc.q.val) 16 = true ∧
      s.hc.unposted = t :: [] ∧ s.lifecycle = .running ∧ e.unread < 16 ∧ s.mem.wf = true ∧
      16 ≤ ({ e with unread := 16 } : EventRing).unread ∧
      ({ State.reset with op := { State.reset.op with usbcmd := 0 } } : State).lifecycle ≠ .running := by
  decide

/-- Each row of R334 enabled, and one that is not. -/
theorem witness_RegisterStepsOfTheController :
    let bits := fun (usbcmd usbsts : Word32) => (usbcmd.getLsbD 0, usbcmd.getLsbD 1, usbsts.getLsbD 0)
    StandardLayout State.reset ∧ bits 0 0 = (false, false, false) ∧ bits 1 1 = (true, false, true) ∧
      (bits 2 0).2.1 = true ∧ bits 1 0 = (true, false, false) := by
  decide

theorem witness_ControllerWritesNoRingNorDcbaa :
    (evState false).Inv ∧
      (∀ e, (evState false).eventRing = some e → e.ring.Placed) ∧
      ∃ t, step { evState false with turns := .hc .halt :: [] } = .next t := by
  refine ⟨evState_inv false, ?_, _, rfl⟩
  intro e he
  cases he
  decide

theorem witness_StepRunsTheNextOperation :
    let s : State := { State.reset with sw := { State.reset.sw with program := [.isHalted] } }
    Unmarked s ∧ (dispatch s).ctx.current = none ∧ (dispatch s).ctx.program = .isHalted :: [] ∧ s.turns = [] := by
  decide

/-- Every clause: a fetch from live memory, one from a freed block, a misaligned pointer, one outside every allocation,
an unknown ring, a halted controller; an endpoint whose record is fetched, one whose record is held, the record. -/
theorem witness_ControllerStepRunsTheFetchedRecord :
    let s : State :=
      { cmdState 1 with op := runningState.op, hc := { State.reset.hc with cmd := { p := 0x200000, ccs := true } } }
    let freed : State := { s with allocs := [], stale := s.allocs }
    let e : HcEndpoint := { slot := 1, endpoint := 3, ring := { p := 0x300000, ccs := true } }
    let h : HeldTrb := { owner := some 0, slot := 1, endpoint := 3, addr := 0x300000, trb := { param := 0, status := 0, control := 0x401 } }
    let w : State := { endpointState with hc := { endpointState.hc with held := [h] } }
    hcRing? s.hc .command = some { p := 0x200000, ccs := true } ∧ s.lifecycle = .running ∧
      (0x200000 : Addr).toNat % 16 = 0 ∧ holdsFrom s.hc .command = false ∧ insideLive s 0x200000 16 = true ∧
      insideLive freed 0x200000 16 = false ∧ insideStale freed 0x200000 16 = true ∧ (0x200008 : Addr).toNat % 16 ≠ 0 ∧
      insideLive s 0x200100 16 = false ∧ insideStale s 0x200100 16 = false ∧ hcRing? s.hc (.endpoint 0) = none ∧
      ({ s with op := { s.op with usbsts := 1 } } : State).lifecycle ≠ .running ∧
      endpointState.hc.endpoints[0]? = some e ∧ endpointState.lifecycle = .running ∧
      holdsFrom endpointState.hc (.endpoint 0) = false ∧ insideLive endpointState e.ring.p 16 = true ∧
      holdsFrom w.hc (.endpoint 0) = true ∧ w.hc.held[0]? = some h ∧ s.hc.endpoints[0]? = none ∧ s.hc.held[0]? = none := by
  decide

/-- An event posted and no handler, no event, a handler at its end, and one that awaits a status bit. -/
theorem witness_HandlerRunsAloneOnTheCpu :
    let h : State := { evState true with handlerActive := true }
    let w : State :=
      { h with
        op := { h.op with usbsts := 1 }
        ih := { h.ih with current := some { instr := .startXhc, answers := [.word 0, .unit], awaits := some { reg := .usbsts, bit := 0, value := false } } } }
    Unmarked (evState true) ∧ (evState true).hasEvent = true ∧ (evState true).handlerActive = false ∧
      (evState false).hasEvent = false ∧ Unmarked h ∧ h.handlerActive = true ∧ ihAwaits h = false ∧
      h.ih.current = none ∧ h.ih.program = [] ∧ (∃ t, step { h with turns := .cpu :: [] } = .next t) ∧
      w.handlerActive = true ∧ ihAwaits w = true ∧ ∃ t, step { w with turns := .cpu :: [] } = .next t := by
  refine ⟨⟨rfl, rfl⟩, by decide, rfl, by decide, ⟨rfl, rfl⟩, rfl, rfl, rfl, rfl, ⟨_, rfl⟩, rfl, by decide, _, rfl⟩

theorem witness_StepKeepsConstantsAndMarks :
    (∃ t, step State.reset = .next t) ∧
      ({ State.reset with faulted := some .cycleMismatch } : State).faulted = some .cycleMismatch ∧
      ({ State.reset with refused := some .doorbellRead } : State).faulted = none ∧
      ({ State.reset with refused := some .doorbellRead } : State).refused = some .doorbellRead :=
  ⟨⟨_, rfl⟩, rfl, rfl, rfl⟩

/-- The launch that `State.reset` is. -/
theorem witness_LaunchHoldsNothing : blocksPlaced (State.launch Launch.named) = true := by decide

theorem witness_StepKeepsTheInvariant : (evState true).Inv ∧ ∃ t, step (evState true) = .next t :=
  ⟨evState_inv true, _, rfl⟩

theorem witness_AccessTurnsAmountToTheOperation :
    let s : State := { State.reset with sw := { State.reset.sw with program := [.isHalted] } }
    Unmarked s ∧ s.turns = [] ∧ (s.handlerActive = true → ihAwaits s = false) ∧ (dispatch s).ctx.current = none ∧
      (dispatch s).ctx.program = .isHalted :: [] ∧ ∃ t, step s = .next t := by
  refine ⟨⟨rfl, rfl⟩, rfl, by decide, rfl, rfl, _, rfl⟩

end Sys2Proof.Tests
end

section
/-! SUPPORT. What an operation can fail with, and where (R300, R312): for each procedure of a ring the one fatal it can
come to and what it has changed by then. `FatalOnly` says so of a piece of an operation; the lemmas go through its
pieces in program order. -/

namespace Sys2Proof.Machine

open Sys2Proof

/-! ### Operations keep the mark -/

theorem readReg_faulted {s s' : State} {r : Reg} {v : Word64} (h : s.readReg r = .ok (v, s')) :
    s'.faulted = s.faulted := by
  cases r <;> cases h <;> rfl

theorem readLoc_faulted {s s' : State} {l : Loc} {n : Nat} {v : Word64} (h : s.readLoc n l = .ok (v, s')) :
    s'.faulted = s.faulted := by
  cases l with
  | dma a => cases h; rfl
  | reg r => exact readReg_faulted h
  | regLo r =>
    simp only [State.readLoc] at h
    split at h
    · next e => cases h; exact readReg_faulted e
    · cases h
  | regHi r =>
    simp only [State.readLoc] at h
    split at h
    · next e => cases h; exact readReg_faulted e
    · cases h

theorem loadCrcr_faulted (v : Word64) (s : State) : (loadCrcr v s).faulted = s.faulted := by
  unfold loadCrcr
  split <;> rfl

theorem writeReg_faulted {s s' : State} {r : Reg} {v : Word64} (h : s.writeReg v r = .ok s') :
    s'.faulted = s.faulted := by
  cases r with
  | crcr => cases h; exact loadCrcr_faulted v s
  | _ => cases h <;> rfl

/-- A write is one of a whole register, or of a half of one (R91), or of memory. -/
theorem writeLoc_faulted {s s' : State} {l : Loc} {n : Nat} {v : Word64} (h : s.writeLoc n v l = .ok s') :
    s'.faulted = s.faulted := by
  unfold State.writeLoc at h
  split at h
  case h_2 | h_5 | h_8 => exact writeReg_faulted h
  case h_6 => cases h; exact loadCrcr_faulted _ s
  all_goals cases h; rfl

/-- No access and no update sets or clears the mark `faulted`; a fatal does, as the operation's end. -/
theorem stable_faulted (f : Option FatalCode) : Stable fun s => s.faulted = f where
  log _ _ _ _ _ h := h
  draw _ h := h
  read _ _ _ _ _ h e := (readLoc_faulted e).trans h
  write _ _ _ _ _ h e := (writeLoc_faulted e).trans h
  lock _ _ _ h := h
  index _ _ _ h := h
  move _ _ _ h := h
  cso _ _ _ h := h
  deq _ _ _ h := h
  eventCso _ _ h := h
  restart _ h := h
  installRing _ place _ h := by cases place <;> exact h
  installCommandRing _ _ h := h
  installTransferRing _ _ _ _ h := h
  installPinned _ _ _ _ h := h
  installDcbaa _ _ h := h
  alloc _ _ _ _ h _ _ := h

/-! ### Stores anywhere -/

/-- A write of a word in memory is followed by the rest of the operation, wherever the word stands. -/
theorem comes_writeWord_anywhere (a : Addr) (n : Nat) (v : Word64) (k : Prog) (s : State) :
    ∃ s', Comes (writeWord (.dma a) n v k) s k s' := by
  unfold writeWord
  by_cases hn : n = 8
  · rw [if_pos hn]
    have ask := comes_askSplit
      (fun split =>
        if split then writeOnce (.dma a) 4 (loWord v) (writeOnce (.dma (a + 4)) 4 (hiWord v) k)
        else writeOnce (.dma a) 8 v k) s
    cases hs : s.cfg.split64
    · rw [hs] at ask
      exact ⟨_, ask.trans (comes_writeOnce_dma a 8 v k s)⟩
    · rw [hs] at ask
      exact ⟨_, (ask.trans (comes_writeOnce_dma a 4 _ _ s)).trans (comes_writeOnce_dma (a + 4) 4 _ k _)⟩
  · rw [if_neg hn]
    exact ⟨_, comes_writeOnce_dma a n v k s⟩

/-- So is a store of a record (R176). -/
theorem comes_storeTrb_anywhere (a : Addr) (t : Trb) (k : Prog) (s : State) : ∃ s', Comes (storeTrb a t k) s k s' := by
  obtain ⟨tr, h1⟩ := comes_readBitsAt_dma (a := a + 12) (n := 4) (shift := 0) (width := 1) (by omega) (by decide)
    (fun c => writeWord (.dma a) 8 t.param
      (writeWord (.dma (a + 8)) 4 (t.status.setWidth 64)
        (writeWord (.dma (a + 12)) 4 ((withCycle t.control (c.getLsbD 0)).setWidth 64) k))) s
  obtain ⟨s2, h2⟩ := comes_writeWord_anywhere a 8 t.param _ { s with trace := tr }
  obtain ⟨s3, h3⟩ := comes_writeWord_anywhere (a + 8) 4 (t.status.setWidth 64) _ s2
  obtain ⟨s4, h4⟩ := comes_writeWord_anywhere (a + 12) 4 _ k s3
  exact ⟨s4, ((h1.trans h2).trans h3).trans h4⟩

/-- So are the stores of the Normal records of a new Transfer Ring (R226). -/
theorem comes_storeBuffers (l : Layout) (base : Addr) (len : BitVec 17) (k : Prog) :
    ∀ i bs s, ∃ s', Comes (storeBuffers l base len i bs k) s k s'
  | _, [], s => ⟨s, Comes.refl k s⟩
  | i, b :: bs, s => by
    obtain ⟨s1, h1⟩ :=
      comes_storeTrb_anywhere (slotAt base i) (normalTrb l b len) (storeBuffers l base len (i + 1) bs k) s
    obtain ⟨s2, h2⟩ := comes_storeBuffers l base len k (i + 1) bs s1
    exact ⟨s2, h1.trans h2⟩

/-! ### The one fatal of a piece of an operation -/

theorem Comes.of_fatal {m : State → Act} {k : Val → Prog} {s : State} {c : FatalCode} (h : m s = .fatal c) :
    Comes (.act m k) s (.fatal c) s :=
  ⟨fun i as => ⟨as, by simp [run, h]⟩, by simp [foresee, h]⟩

/-- In `s`, `p` goes on to `k`, or ends without a fatal (its result, a refusal, a hold), or comes to the fatal `c` in a
state that `I` holds of. -/
inductive FatalOnly (c : FatalCode) (I : State → Prop) (p k : Prog) (s : State) : Prop
  | goesOn (s' : State) (h : Comes p s k s')
  | ends (h : foresee p s = none)
  | fatal (s' : State) (hI : I s') (h : Comes p s (.fatal c) s')

/-- The same of a whole operation, which leaves nothing to go on to. -/
abbrev EndsFatalOnly (c : FatalCode) (I : State → Prop) (p : Prog) (s : State) : Prop := FatalOnly c I p (.ret .unit) s

namespace FatalOnly

variable {c : FatalCode} {I : State → Prop} {p q k : Prog} {s s' : State}

theorem after (hp : Comes p s q s') (h : FatalOnly c I q k s') : FatalOnly c I p k s := by
  cases h with
  | goesOn s2 h => exact .goesOn s2 (hp.trans h)
  | ends h => exact .ends (hp.2.trans h)
  | fatal s2 hI h => exact .fatal s2 hI (hp.trans h)

theorem mono {J : State → Prop} (hIJ : ∀ u, I u → J u) (h : FatalOnly c I p k s) : FatalOnly c J p k s := by
  cases h with
  | goesOn s2 h => exact .goesOn s2 h
  | ends h => exact .ends h
  | fatal s2 hI h => exact .fatal s2 (hIJ s2 hI) h

/-- Two pieces, one after the other: where the second is fatal, nothing is said of what the first has done. -/
theorem seq {J : State → State → Prop} (h : FatalOnly c I p q s) (hq : ∀ u, FatalOnly c (J u) q k u) :
    FatalOnly c (fun _ => True) p k s := by
  cases h with
  | goesOn s2 h => exact after h ((hq s2).mono fun _ _ => trivial)
  | ends h => exact .ends h
  | fatal s2 _ h => exact .fatal s2 trivial h

theorem toEnd (h : FatalOnly c I p k s) (hk : ∀ u, foresee k u = none) : EndsFatalOnly c I p s := by
  cases h with
  | goesOn s2 h => exact .ends (h.2.trans (hk s2))
  | ends h => exact .ends h
  | fatal s2 hI h => exact .fatal s2 hI h

/-- A look ahead brings the fatal forward, before anything is done (R300, log 37). -/
theorem precise (h : EndsFatalOnly c I p s) : EndsFatalOnly c (· = s) (Machine.precise p) s := by
  have ends (e : foresee p s = none) : foresee (Machine.precise p) s = none := by
    simp [Machine.precise, foresee, e]
  cases h with
  | goesOn s2 h => exact .ends (ends h.2)
  | ends h => exact .ends (ends h)
  | fatal s2 _ h =>
    have hf : foresee p s = some c := h.2
    exact .fatal s rfl (Comes.of_fatal (by simp [hf]))

/-- A marked state is one that the operation's one fatal has left. -/
theorem marked {i : Instr} {l : Layout} {t : State} (h : EndsFatalOnly c I (progOf l i) s) (hs : Unmarked s)
    (ht : t.faulted ≠ none) (he : runOp i (progOf l i) s = .next t) : ∃ u, I u ∧ t = raiseFatal c u := by
  obtain ⟨hf, hr⟩ := hs
  rw [runOp_unmarked hf hr] at he
  cases he
  rw [run_foresee i _ [] s (progOf_keeps (stable_faulted none) l i) hf] at ht
  cases h with
  | goesOn s2 h => exact absurd h.2 ht
  | ends h => exact absurd h ht
  | fatal s2 hI h =>
    obtain ⟨as, e⟩ := h.1 i []
    exact ⟨s2, hI, e⟩

end FatalOnly

/-! ### Reads of software objects, and locks -/

section

variable {c : FatalCode} {I : State → Prop} {s : State}

theorem fatalOnly_getRing {r : RingId} {f : RingBuf → Prog} {k : Prog}
    (h : ∀ b, s.ring? r = some b → FatalOnly c I (f b) k s) : FatalOnly c I (getRing r f) k s := by
  cases hr : s.ring? r with
  | none => exact .ends (by simp [getRing, foresee, hr])
  | some b => exact .after (comes_getRing hr f) (h b hr)

theorem fatalOnly_getCso {o : RingOwner} {f : Bool → Prog} {k : Prog}
    (h : ∀ b, s.cso? o = some b → FatalOnly c I (f b) k s) : FatalOnly c I (getCso o f) k s := by
  cases hr : s.cso? o with
  | none => exact .ends (by simp [getCso, foresee, hr])
  | some b => exact .after (comes_getCso hr f) (h b hr)

theorem fatalOnly_getTransfer {j : Nat} {f : TransferRing → Prog} {k : Prog}
    (h : ∀ t, s.transferRing? j = some t → FatalOnly c I (f t) k s) : FatalOnly c I (getTransfer j f) k s := by
  cases hr : s.transferRing? j with
  | none => exact .ends (by simp [getTransfer, foresee, hr])
  | some t => exact .after (comes_getTransfer hr f) (h t hr)

theorem fatalOnly_acquire {l : LockId} {p k : Prog} (h : FatalOnly c I p k (s.setLock l (.held s.agent))) :
    FatalOnly c I (acquire l p) k s := by
  cases hl : s.lock? l with
  | none => exact .ends (by simp [acquire, foresee, hl])
  | some v =>
    cases v with
    | held a => exact .ends (by simp [acquire, foresee, hl])
    | free => exact .after (comes_acquire hl p) h

/-- A ring operation runs on the state with the ring's lock held (R229). -/
theorem fatalOnly_lockRing {r : RingId} {p k : Prog} (h : FatalOnly c I p k (held r s)) :
    FatalOnly c I (lockRing r p) k s := by
  cases r with
  | transfer j => exact fatalOnly_acquire h
  | command => exact h
  | event => exact h
  | bare j => exact h

end

@[simp] theorem foresee_unlockRing_ret (r : RingId) (res : Result) (s : State) :
    foresee (unlockRing r (.ret res)) s = none := by cases r <;> rfl

/-! ### The procedures of a ring -/

/-- Nothing has been done but accesses that read. -/
def OnlyRead (s u : State) : Prop := ∃ tr, u = { s with trace := tr }

/-- A fatal of `advance_index` has written nothing (R302). -/
theorem fatalOnly_advance (r : RingId) (new : Bool) (k : Prog) (s : State) :
    FatalOnly .cycleUnchanged (OnlyRead s) (advance r new k) k s := by
  cases hr : s.ring? r with
  | none => exact .ends (by simp [advance, getRing, foresee, hr])
  | some b =>
    by_cases hc : slotCycle s.mem b.phys b.index.val = new
    · obtain ⟨tr, h⟩ := comes_advance_fatal hr hc k
      exact .fatal _ ⟨tr, rfl⟩ h
    · obtain ⟨tr, h⟩ := comes_advance hr hc k
      exact .goesOn _ h

/-- Nor has a fatal of `skip_link` (R198, R300): the Link slot is handed over before the flag flips. -/
theorem fatalOnly_passLink (o : RingOwner) (k : Prog) (s : State) :
    FatalOnly .cycleUnchanged (OnlyRead s) (passLink o k) k s := by
  refine fatalOnly_getRing fun b _ => ?_
  obtain ⟨tr, hty⟩ := comes_readType b.phys b.index.val
    (fun ty =>
      if ty = 6 then
        getCso o fun c => advance (ownerRing o) (!c) (update (fun s => s.flipCso o) k)
      else k) s
  refine .after hty ?_
  split
  · refine fatalOnly_getCso fun c _ => ?_
    cases fatalOnly_advance (ownerRing o) (!c) (update (fun s => s.flipCso o) k) { s with trace := tr } with
    | goesOn s2 h => exact .goesOn _ (h.trans (comes_update _ k s2))
    | ends h => exact .ends h
    | fatal s2 hI h => exact .fatal s2 hI h
  · exact .goesOn _ (Comes.refl k _)

/-- A hand-over and the passing of the Link, as `push`, `fill_ring` and `dequeue_trb` make them. -/
theorem fatalOnly_advance_passLink (r : RingId) (new : Bool) (o : RingOwner) (k : Prog) (s : State) :
    FatalOnly .cycleUnchanged (fun _ => True) (advance r new (passLink o k)) k s :=
  (fatalOnly_advance r new _ s).seq (fatalOnly_passLink o k)

/-- The rounds of `fill_ring` (R227). -/
theorem fatalOnly_fillLoop (j : Nat) (k : Prog) :
    ∀ n s, FatalOnly .cycleUnchanged (fun _ => True) (fillLoop j n k) k s
  | 0, s => .goesOn s (Comes.refl k s)
  | n + 1, s => by
    refine fatalOnly_getTransfer fun t _ => ?_
    split
    · exact .goesOn s (Comes.refl k s)
    · exact (fatalOnly_advance_passLink (.transfer j) (!t.cso) (.transfer j) _ s).seq (fatalOnly_fillLoop j k n)

/-! ### Allocation (R290, R292, R296) -/

/-- A block that is zeroed reads 0, and every other byte as before, in a memory of any form. -/
theorem Memory.read_clear_anyForm (m : Memory) (base n x : Nat) :
    (m.clear base n).read x = if base ≤ x ∧ x < base + n then 0 else m.read x := by
  induction m with
  | nil => simp [Memory.clear, Memory.read]
  | cons cell m ih =>
    obtain ⟨k, b⟩ := cell
    unfold Memory.clear at ih ⊢
    rw [List.filter_cons, Memory.read_cons]
    by_cases hin : k < base ∨ base + n ≤ k
    · rw [if_pos (by simpa using hin), Memory.read_cons, ih]
      by_cases hk : k = x
      · rw [if_pos hk, if_pos hk, if_neg (by omega)]
      · rw [if_neg hk, if_neg hk]
    · rw [if_neg (by simpa using hin), ih]
      by_cases hk : k = x
      · rw [if_pos (by omega), if_pos (by omega)]
      · rw [if_neg hk]

/-- The byte at `a` belongs to one of the blocks. -/
def InBlocks (made : List Alloc) (a : Nat) : Prop := ∃ l ∈ made, l.base.toNat ≤ a ∧ a < l.base.toNat + l.size

theorem inBlocks_cons {l : Alloc} {made : List Alloc} {a : Nat} :
    InBlocks (l :: made) a ↔ (l.base.toNat ≤ a ∧ a < l.base.toNat + l.size) ∨ InBlocks made a := by
  simp [InBlocks]

/-- From `s` to `u` the blocks `made` have been allocated and zeroed, and nothing else has been done. -/
structure Made (s u : State) (made : List Alloc) : Prop where
  zeroed : ∀ a, InBlocks made a → u.mem.read a = 0
  kept : ∀ a, ¬InBlocks made a → u.mem.read a = s.mem.read a
  frame : ∃ m w d, u = { s with mem := m, allocs := made ++ s.allocs, supply := w, drawn := d }

theorem Made.refl (s : State) : Made s s [] where
  zeroed _ h := by obtain ⟨l, hl, -⟩ := h; cases hl
  kept _ _ := rfl
  frame := ⟨_, _, _, rfl⟩

/-- Nothing has been done but allocations. -/
def OnlyMade (s u : State) : Prop := ∃ made, Made s u made

/-- The state with one more block, as `allocate` makes it. -/
def State.withBlock (s : State) (size : Nat) (kind : AllocKind) : State :=
  { s.draw.2 with
    mem := s.mem.clear s.draw.1.toNat size
    allocs := { base := s.draw.1, size := size, kind := kind } :: s.allocs }

theorem Made.withBlock {s u : State} {made : List Alloc} (h : Made s u made) (size : Nat) (kind : AllocKind) :
    Made s (u.withBlock size kind) ({ base := u.draw.1, size := size, kind := kind } :: made) where
  zeroed a ha := by
    refine (Memory.read_clear_anyForm _ _ _ _).trans ?_
    split
    · rfl
    · next hn => exact h.zeroed a ((inBlocks_cons.1 ha).resolve_left hn)
  kept a ha := by
    rw [inBlocks_cons, not_or] at ha
    exact ((Memory.read_clear_anyForm _ _ _ _).trans (if_neg ha.1)).trans (h.kept a ha.2)
  frame := by
    obtain ⟨m, w, d, rfl⟩ := h.frame
    exact ⟨_, _, _, rfl⟩

/-- `Pinned::new` either makes its block or is fatal and has done nothing (R296). -/
theorem comes_allocate {size align : Nat} (kind : AllocKind) (k : Addr → Prog) (s : State) :
    Comes (allocate size align kind k) s (k s.draw.1) (s.withBlock size kind) ∨
      Comes (allocate size align kind k) s (.fatal .dmaAlloc) s := by
  by_cases h : admissible s size align s.draw.1 = true
  · exact .inl (Comes.of_done (v := .word s.draw.1) (by simp [h, State.withBlock]))
  · exact .inr (Comes.of_fatal (by simp [h]))

/-- After `s0` and the blocks made so far, one more allocation and then `f`. -/
theorem fatalOnly_allocate {s0 s : State} {made : List Alloc} (hs : Made s0 s made) {size align : Nat}
    {kind : AllocKind} {f : Addr → Prog} {k : Prog}
    (h : ∀ b u made', Made s0 u made' → FatalOnly .dmaAlloc (OnlyMade s0) (f b) k u) :
    FatalOnly .dmaAlloc (OnlyMade s0) (allocate size align kind f) k s := by
  rcases comes_allocate kind f s with hc | hc
  · exact .after hc (h _ _ _ (hs.withBlock size kind))
  · exact .fatal s ⟨made, hs⟩ hc

theorem fatalOnly_allocBuffers {s0 : State} {f : List Addr → Prog} {k : Prog}
    (h : ∀ bs u made, Made s0 u made → FatalOnly .dmaAlloc (OnlyMade s0) (f bs) k u) :
    ∀ n acc s made, Made s0 s made →
      FatalOnly .dmaAlloc (OnlyMade s0) (allocBuffers n acc f) k s
  | 0, acc, s, made, hs => h acc s made hs
  | n + 1, _, _, _, hs => fatalOnly_allocate hs fun _ u made' hu => fatalOnly_allocBuffers h n _ u made' hu

/-! ### The operations -/

/-- `push` (R214). -/
theorem push_fatalOnly (x : Trb) (s : State) : EndsFatalOnly .cycleUnchanged (· = s) (progPush x) s := by
  refine FatalOnly.precise (I := fun _ => True) (fatalOnly_getRing fun b _ => ?_)
  obtain ⟨s1, h⟩ := comes_storeTrb_anywhere (slotAt b.phys b.index.val) x
    (getCso .command fun c => advance .command (!c) (passLink .command (.ret (.word (slotAt b.phys b.index.val))))) s
  refine .after h (fatalOnly_getCso fun c _ => ?_)
  exact (fatalOnly_advance_passLink _ _ _ _ s1).toEnd fun _ => rfl

/-- `fill_ring` (R227, R229). -/
theorem fillRing_fatalOnly (j : Nat) (s : State) :
    EndsFatalOnly .cycleUnchanged (· = held (.transfer j) s) (progFillRing j) s :=
  fatalOnly_acquire ((fatalOnly_fillLoop j _ _ _).toEnd fun _ => rfl).precise

/-- `skip_link` (R198). -/
theorem skipLink_fatalOnly (o : RingOwner) (s : State) :
    EndsFatalOnly .cycleUnchanged (OnlyRead (held (ownerRing o) s)) (progSkipLink o) s :=
  fatalOnly_lockRing ((fatalOnly_passLink o _ _).toEnd fun _ => foresee_unlockRing_ret _ _ _)

theorem setLock_ring (s : State) (j : Nat) (v : Lock) :
    s.setLock (.ring j) v = { s with transferRings := s.modifyTransfer j fun t => { t with lock := v } } := rfl

theorem transferRing?_setLock {s : State} {j : Nat} {r : TransferRing} (h : s.transferRing? j = some r) (v : Lock) :
    (s.setLock (.ring j) v).transferRing? j = some { r with lock := v } := by
  rw [State.transferRing?, Option.join_eq_some_iff] at h ⊢
  simp [setLock_ring, State.modifyTransfer, h]

/-- Taking a ring's lock and moving its dequeue cursor touch fields of their own. -/
theorem setDeq_held (s : State) (j : Nat) (d : Fin 15) :
    (held (.transfer j) s).setDeq j d = held (.transfer j) (s.setDeq j d) := by
  simp [held, State.setDeq, setLock_ring, State.modifyTransfer, State.agent, List.modify_modify_eq, Function.comp_def]

/-- `dequeue_trb` where there is no ring. -/
theorem foresee_dequeueTrb_none {s : State} {j : Nat} (hr : s.transferRing? j = none) (p : Addr) :
    foresee (progDequeueTrb j p) s = none := by
  simp [progDequeueTrb, acquire, foresee, State.lock?, hr]

/-- `dequeue_trb` of another address (R228, R304). -/
theorem dequeueTrb_fatalOnly_of_ne {s : State} {j : Nat} {r : TransferRing} (hr : s.transferRing? j = some r) {p : Addr}
    (hp : slotAt r.ring.phys r.deq.val ≠ p) :
    EndsFatalOnly .dequeueAddr (· = held (.transfer j) s) (progDequeueTrb j p) s := by
  refine fatalOnly_acquire (.after (comes_getTransfer (transferRing?_setLock hr _) _) ?_)
  rw [if_pos hp]
  exact .fatal _ rfl (Comes.refl _ _)

/-- `dequeue_trb` of the dequeue slot's address: the cursor has been advanced (R228). -/
theorem dequeueTrb_fatalOnly_of_eq {s : State} {j : Nat} {r : TransferRing} (hr : s.transferRing? j = some r) {p : Addr}
    (hp : slotAt r.ring.phys r.deq.val = p) :
    EndsFatalOnly .cycleUnchanged (· = held (.transfer j) (s.setDeq j (r.deq + 1))) (progDequeueTrb j p) s := by
  refine fatalOnly_acquire (.after (comes_getTransfer (transferRing?_setLock hr _) _) ?_)
  rw [if_neg (not_not.2 hp), ← setDeq_held]
  exact .after (comes_update _ _ _) ((fatalOnly_advance_passLink _ _ _ _ _).toEnd fun _ => rfl).precise

/-- `TransferRing::new` (R226): every allocation comes before the first record is stored. -/
theorem transferRingNew_fatalOnly (j : Nat) (s : State) :
    EndsFatalOnly .dmaAlloc (OnlyMade s) (progTransferRingNew j) s := by
  refine .after (comes_getParams _ s) ?_
  by_cases hlen : s.cfg.trTransferLen ≤ Config.bufSize
  case neg => exact .ends (by simp [needs, hlen, foresee])
  refine .after (comes_needs (decide_eq_true hlen) _ _ s) ?_
  by_cases hplace : j ≤ s.transferRings.length
  case neg => exact .ends (by simp [require, foresee, hplace])
  refine .after (comes_require (decide_eq_true hplace) _ _) ?_
  refine fatalOnly_allocate (Made.refl s) fun p u made hu => ?_
  refine fatalOnly_allocBuffers (fun bufs v _ _ => ?_) Config.usable [] u made hu
  obtain ⟨w, hstored⟩ := comes_storeBuffers s.cfg.layout p (BitVec.ofNat 17 s.cfg.trTransferLen)
    (storeLink p (update (installTransferRing j p bufs) (.ret (.region p Config.ringBytes)))) 0 bufs v
  obtain ⟨x, hlink⟩ := comes_storeTrb_anywhere (slotAt p Config.usable) (linkTrb p)
    (update (installTransferRing j p bufs) (.ret (.region p Config.ringBytes))) w
  exact .ends ((hstored.trans hlink).2.trans rfl)

/-! ### The statement -/

/-- A fatal before which the operation has only read leaves the state before the operation, the ring's lock still held
(R314). -/
theorem fatal_of_onlyRead {s u : State} {c : FatalCode} {r : RingId} (h : OnlyRead (held r s) u) :
    Fatal s (raiseFatal c u) c r := by
  obtain ⟨tr, rfl⟩ := h
  rfl

/-- A store into a slot keeps its cycle bit (R176) and leaves the Command Ring's cursor and flag alone. -/
theorem comes_storeTrb_keepsCycle {base : Addr} (hbase : base.toNat + 256 ≤ 2 ^ 64) {i : Nat} (hi : i < 16) {s : State}
    (hm : s.mem.wf = true) (t : Trb) (k : Prog) :
    ∃ u, Comes (storeTrb (slotAt base i) t k) s k u ∧ slotCycle u.mem base i = slotCycle s.mem base i ∧
      u.cmdRing = s.cmdRing := by
  have ha := slotAt_toNat hbase hi
  obtain ⟨tr, h⟩ := comes_storeTrb (a := slotAt base i) (by omega) t k s
  refine ⟨_, h, ?_, rfl⟩
  rw [slotCycle, slotTrb_putTrb hm hbase hi hi, if_pos rfl]
  exact trbCycle_withCycle _ _ _

theorem ring?_command {s : State} {c : CommandRing} (h : s.cmdRing = some c) : s.ring? .command = some c.ring :=
  congrArg (Option.map CommandRing.ring) h

theorem cso?_command {s : State} {c : CommandRing} (h : s.cmdRing = some c) : s.cso? .command = some c.cso :=
  congrArg (Option.map CommandRing.cso) h

/-- `push` on a slot that already holds the new cycle bit: the store keeps the bit, and the hand-over finds it. -/
theorem push_cycleUnchanged {x : Trb} {c : CommandRing} {s : State} (hc : s.cmdRing = some c)
    (hp : c.ring.Placed) (hm : s.mem.wf = true)
    (hcycle : slotCycle s.mem c.ring.phys c.ring.index.val ≠ c.cso) (i : Instr) (as : List Val) :
    run i (progPush x) as s = raiseFatal .cycleUnchanged s := by
  obtain ⟨u, hstore, hkept, hu⟩ := comes_storeTrb_keepsCycle hp c.ring.index.isLt hm x
    (getCso .command fun b =>
      advance .command (!b) (passLink .command (.ret (.word (slotAt c.ring.phys c.ring.index.val)))))
  have huc : u.cmdRing = some c := hu.trans hc
  obtain ⟨tr, hfatal⟩ := comes_advance_fatal (ring?_command huc) (hkept.trans (Bool.eq_not.2 hcycle))
    (passLink .command (.ret (.word (slotAt c.ring.phys c.ring.index.val))))
  have hasked := hstore.trans (comes_getCso (cso?_command huc) _)
  exact run_precise_fatal (((comes_getRing (ring?_command hc) _).trans hasked).trans hfatal) i as

/-- A fatal of `dequeue_trb` (R228): there is a ring, and its address tells which of the two it is. -/
theorem dequeueTrb_fatal {k : Nat} {p : Addr} {s t : State} (hs : Unmarked s) (ht : t.faulted ≠ none)
    (he : exec (.dequeueTrb k p) s = .next t) :
    ∃ r, s.transferRing? k = some r ∧
      if p = r.ring.phys + BitVec.ofNat 64 (16 * r.deq.val) then
        Fatal (s.setDeq k (r.deq + 1)) t .cycleUnchanged (.transfer k)
      else Fatal s t .dequeueAddr (.transfer k) := by
  cases hr : s.transferRing? k with
  | none =>
    have none_fatal : EndsFatalOnly .dequeueAddr (fun _ => False) (progDequeueTrb k p) s :=
      .ends (foresee_dequeueTrb_none hr p)
    obtain ⟨u, hu, -⟩ := none_fatal.marked (l := s.cfg.layout) (i := .dequeueTrb k p) hs ht he
    exact hu.elim
  | some r =>
    refine ⟨r, rfl, ?_⟩
    split
    next hp =>
      obtain ⟨_, rfl, rfl⟩ :=
        (dequeueTrb_fatalOnly_of_eq hr hp.symm).marked (l := s.cfg.layout) (i := .dequeueTrb k p) hs ht he
      rfl
    next hp =>
      obtain ⟨_, rfl, rfl⟩ :=
        (dequeueTrb_fatalOnly_of_ne hr (Ne.symm hp)).marked (l := s.cfg.layout) (i := .dequeueTrb k p) hs ht he
      rfl

/-- A fatal of `TransferRing::new` (R292, R296): the blocks allocated before it stay, zeroed. -/
theorem transferRingNew_fatal {k : Nat} {s t : State} (hs : Unmarked s) (ht : t.faulted ≠ none)
    (he : exec (.transferRingNew k) s = .next t) :
    ∃ made, (∀ a, InBlocks made a → t.mem.read a = 0) ∧ (∀ a, ¬InBlocks made a → t.mem.read a = s.mem.read a) ∧
      t = { raiseFatal .dmaAlloc s with
        mem := t.mem, allocs := made ++ s.allocs, supply := t.supply, drawn := t.drawn } := by
  obtain ⟨u, ⟨made, hmade⟩, rfl⟩ :=
    (transferRingNew_fatalOnly k s).marked (l := s.cfg.layout) (i := .transferRingNew k) hs ht he
  refine ⟨made, hmade.zeroed, hmade.kept, ?_⟩
  obtain ⟨m, w, d, rfl⟩ := hmade.frame
  rfl

/-- Settles O2: each operation has one fatal, and what has been done by then is what the operation's pieces up to its
check do. -/
theorem checksComeBeforeWrites : Obligations.ChecksComeBeforeWrites := by
  refine ⟨fun x k p o s t hs ht => ⟨fun he => ?push, fun he => ?fillRing, fun he => ?skipLink,
    dequeueTrb_fatal hs ht, transferRingNew_fatal hs ht⟩, fun x c s hs hc hp hm hcycle => ?pushFatal⟩
  case push =>
    obtain ⟨_, rfl, rfl⟩ := (push_fatalOnly x s).marked (l := s.cfg.layout) (i := .push x) hs ht he
    rfl
  case fillRing =>
    obtain ⟨_, rfl, rfl⟩ := (fillRing_fatalOnly k s).marked (l := s.cfg.layout) (i := .fillRing k) hs ht he
    rfl
  case skipLink =>
    obtain ⟨u, hu, rfl⟩ := (skipLink_fatalOnly o s).marked (l := s.cfg.layout) (i := .skipLink o) hs ht he
    exact fatal_of_onlyRead hu
  case pushFatal =>
    obtain ⟨hf, hr⟩ := hs
    exact (runOp_unmarked hf hr _ _).trans (congrArg _ (push_cycleUnchanged hc hp hm hcycle _ _))

end Sys2Proof.Machine
end

section
/-! SUPPORT. What every step keeps, said once: a step is a turn of a CPU agent, which runs an operation
(Laws/Keeps.lean) or drops an owner, or it is a turn of the controller, the start of a handler or the out-of-scope
set-up, which make a few kinds of change of their own (`StableOutside` lists them). From it the invariant of Safety.lean
and the constants. -/

namespace Sys2Proof.Machine

open Sys2Proof

/-! ### What is done outside the operations -/

/-- A predicate kept by each kind of change that steps make outside the operations of the CPU agents. -/
structure StableOutside (I : State → Prop) : Prop where
  elsewhere : ∀ {s turns serving sw ih active cpu code op hc supply hcSupply drawn stale}, I s →
    I { s with
        turns := turns, serving := serving, sw := sw, ih := ih, handlerActive := active, cpu := cpu,
        handlerCode := code, op := op, hc := hc, supply := supply, hcSupply := hcSupply, drawn := drawn,
        stale := stale }
  store : ∀ s a b, I s → I { s with mem := s.mem.write a b }
  post : ∀ s e, I s → s.eventRing = some e → eventRoom e = true →
    I { s with eventRing := some { e with unread := e.unread + 1 } }
  drop : ∀ s o, I s → I (dropOwner o s)

section

variable {I : State → Prop} (ho : StableOutside I)

include ho

/-- Taking a free value (log 4). -/
theorem keeps_draw {s : State} (hs : I s) : I s.draw.2 := ho.elsewhere hs

theorem keeps_drawSeven {s : State} (hs : I s) : I (drawSeven s).2 :=
  keeps_draw ho (keeps_draw ho (keeps_draw ho (keeps_draw ho (keeps_draw ho (keeps_draw ho (keeps_draw ho hs))))))

theorem keeps_enqueueEvent (t : Trb) {s : State} (hs : I s) : I (enqueueEvent t s) := ho.elsewhere hs

theorem keeps_storeBytes : ∀ (bs : List Byte) (a : Nat) {s : State}, I s → I { s with mem := s.mem.writeBytes a bs }
  | [], _, _, hs => hs
  | b :: bs, a, _, hs => keeps_storeBytes bs (a + 1) (ho.store _ a b hs)

theorem keeps_storeWord (a : Addr) (n : Nat) (v : Word64) {s : State} (hs : I s) :
    I { s with mem := s.mem.writeWord a n v } := keeps_storeBytes ho _ _ hs

/-- A record written word by word (R333). -/
theorem keeps_storeRecord (a : Addr) (param status control : Word64) {s : State} (hs : I s) :
    I { s with
        mem := ((s.mem.writeWord a 8 param).writeWord (a + 8) 4 status).writeWord (a + 12) 4 control } := by
  have h1 := keeps_storeWord ho a 8 param hs
  have h2 := keeps_storeWord ho (a + 8) 4 status h1
  exact keeps_storeWord ho (a + 12) 4 control h2

/-! ### The controller -/

theorem keeps_receive : ∀ (n a : Nat) {s : State}, I s → I (receive a n s)
  | 0, _, _, hs => hs
  | n + 1, a, s, hs =>
    keeps_receive n (a + 1) (ho.elsewhere (ho.store s a (s.draw.1.setWidth 8) hs))

theorem keeps_transferData (t : Trb) (p : Addr) {s : State} (hs : I s) : I (transferData t p s).2 := by
  have hd := keeps_draw ho hs
  unfold transferData
  dsimp only
  split
  · exact keeps_receive ho _ _ hd
  · exact hd

theorem keeps_executeTransfer (slot : BitVec 8) (endpoint : BitVec 5) (a : Addr) (t : Trb) {move : State → State}
    (hmove : ∀ u, I u → I (move u)) {s : State} (hs : I s) : I (executeTransfer slot endpoint a t move s) := by
  have h1 := hmove _ (keeps_transferData ho t a hs)
  unfold executeTransfer
  dsimp only
  split
  · exact keeps_enqueueEvent ho _ (keeps_draw ho h1)
  · exact h1

theorem keeps_moveHcRing (sel : RingSel) (r : HcRing) {s : State} (hs : I s) : I (moveHcRing sel r s) :=
  ho.elsewhere hs

/-- The consume step (R331, R332). -/
theorem keeps_hcConsume (sel : RingSel) (t : Trb) {s : State} (hs : I s) : I (hcConsume sel t s) := by
  unfold hcConsume
  split
  · exact hs
  · split
    · exact ho.elsewhere hs
    · split
      · exact keeps_moveHcRing ho _ _ hs
      · split
        · exact keeps_enqueueEvent ho _ (keeps_moveHcRing ho _ _ (keeps_draw ho hs))
        · split
          · exact hs
          · exact keeps_executeTransfer ho _ _ _ _ (fun _ => keeps_moveHcRing ho _ _) hs

/-- The execution of a held record (R332; log 46). -/
theorem keeps_executeHeld (h : HeldTrb) (t : Trb) {s : State} (hs : I s) : I (executeHeld h t s) :=
  keeps_executeTransfer ho _ _ _ _ (fun u hu => passHeld_frame h u ▸ ho.elsewhere hu) hs

/-- The fetch step (R295; log 46). -/
theorem keeps_hcHold (k : Nat) {s : State} (hs : I s) : I (hcHold k s) := by
  obtain ⟨new, hframe⟩ := hcHold_frame k s
  rw [hframe]
  exact ho.elsewhere hs

/-- The post step (R333). -/
theorem keeps_hcPost {s : State} (hs : I s) : I (hcPost s) := by
  unfold hcPost
  split
  · next e t ts he _ =>
    dsimp only
    split
    · next hpost =>
      simp only [Bool.and_eq_true] at hpost
      obtain ⟨⟨-, hroom⟩, -⟩ := hpost
      exact ho.elsewhere (keeps_storeRecord ho (slotAt e.ring.phys s.hc.q.val) t.param (t.status.setWidth 64)
        ((withCycle t.control s.hc.pcs).setWidth 64) (ho.post s e hs he hroom))
    · exact hs
  · exact hs

theorem keeps_hcHalt {s : State} (hs : I s) : I (hcHalt s) := by
  unfold hcHalt
  dsimp only
  split
  · exact ho.elsewhere hs
  · exact hs

theorem keeps_hcRun {s : State} (hs : I s) : I (hcRun s) := by
  unfold hcRun
  dsimp only
  split
  · exact ho.elsewhere hs
  · exact hs

theorem keeps_hcResetComplete {s : State} (hs : I s) : I (hcResetComplete s) := by
  unfold hcResetComplete
  split
  · have hd : I s.drawHidden.2 := ho.elsewhere hs
    exact ho.elsewhere (keeps_drawSeven ho hd)
  · exact hs

/-! ### The out-of-scope set-up and the handler -/

theorem keeps_bindEndpoint (slot : BitVec 8) (endpoint : BitVec 5) (k : Nat) {s : State} (hs : I s) :
    I (bindEndpoint slot endpoint k s) := by
  unfold bindEndpoint
  split
  · exact hs
  · dsimp only
    split <;> exact ho.elsewhere hs

theorem keeps_bindEventRing {s : State} (hs : I s) : I (bindEventRing s) := ho.elsewhere (s := s) hs

theorem keeps_beginHandler {s : State} (hs : I s) : I (beginHandler s) := by
  unfold beginHandler
  split
  · exact ho.elsewhere hs
  · exact hs

end

/-! ### Actions -/

/-- The state that an action runs an instruction in, or leads to at once, has `I`. -/
def Action.Keeps (I : State → Prop) : Action → Prop
  | .exec _ s => I s
  | .done (.next t) => I t
  | .done (.fault _) => True
  | .done (.refused _) => True

/-- The fetch of a record to consume takes free values and addresses, nothing else. -/
theorem hcFetch_some {s u : State} {sel : RingSel} {i : Instr} (h : hcFetch s sel = some (i, u)) :
    u = { s with hc := u.hc, supply := u.supply, drawn := u.drawn } := by
  unfold hcFetch at h
  split at h
  · cases h
  · split at h
    · cases h
    · next hfetch =>
      have hframe := (fetchAt_some (fetchRing_some hfetch).2.2).2.2
      split at h
      · cases h
        rw [hframe]
      · cases h

/-- A turn of the controller (R330 to R334). -/
theorem hcAction_keeps {I : State → Prop} (ho : StableOutside I) (h : HcStep) {s : State} (hs : I s) :
    (hcAction h s).Keeps I := by
  cases h with
  | consume sel =>
    dsimp only [hcAction]
    split
    · next i u hf =>
      rw [hcFetch_some hf]
      exact ho.elsewhere (s := s) hs
    · exact hs
  | fetch k => exact keeps_hcHold ho k hs
  | complete j =>
    dsimp only [hcAction]
    split
    · exact hs
    · split
      · exact ho.elsewhere (s := s) hs
      · exact hs
  | post => exact keeps_hcPost ho hs
  | halt => exact keeps_hcHalt ho hs
  | resetComplete => exact keeps_hcResetComplete ho hs
  | run => exact keeps_hcRun ho hs

/-- The turns of the CPU agents (R37, R300). -/
def Turn.OfCpu (turn : Turn) : Prop := turn = .cpu ∨ turn = .access ∨ ∃ o, turn = .drop o

/-- The next turn keeps `I`, where a turn of a CPU agent does. -/
theorem nextAction_keeps_of_cpu {I : State → Prop} (ho : StableOutside I) {s : State} (hs : I s)
    (hcpu : ∀ turn u, turn.OfCpu → I u → (turnAction turn u).Keeps I) : (nextAction s).Keeps I := by
  unfold nextAction
  split
  · exact hcpu .cpu s (.inl rfl) hs
  · next turn rest _ =>
    have hrest : I { s with turns := rest } := ho.elsewhere hs
    cases turn with
    | cpu => exact hcpu _ _ (.inl rfl) hrest
    | access => exact hcpu _ _ (.inr (.inl rfl)) hrest
    | drop o => exact hcpu _ _ (.inr (.inr ⟨o, rfl⟩)) hrest
    | handler => exact keeps_beginHandler ho hrest
    | hc h => exact hcAction_keeps ho h hrest
    | bindEndpoint slot endpoint k => exact keeps_bindEndpoint ho slot endpoint k hrest
    | bindEventRing => exact keeps_bindEventRing ho hrest

/-! ### Instructions -/

/-- What an instruction comes to: an operation that the CPU agent runs, or a record that the controller executes. -/
inductive ExecIs (s : State) (o : Host.Outcome State Fault Refusal) : Prop
  | operation (i : Instr) (p : Prog) (hp : ∀ I, Stable I → p.Keeps I) (h : o = runOp i p s)
  | consumed (sel : RingSel) (x : Trb) (h : o = .next (hcConsume sel x s))
  | held (r : HeldTrb) (x : Trb) (h : o = .next (executeHeld r x s))

theorem consumeRecord_is (kind : BitVec 6) (r : Rec) (s : State) : ExecIs s (consumeRecord kind r s) := by
  unfold consumeRecord
  split
  · exact .operation _ _ (fun _ _ => keeps_ret) rfl
  · exact .consumed _ _ rfl
  · exact .held _ _ rfl

theorem runOp_is (i : Instr) (l : Layout) (s : State) : ExecIs s (runOp i (progOf l i) s) :=
  .operation _ _ (fun _ hI => progOf_keeps hI l i) rfl

/-- The 64 record types are executed by whoever holds them (R103, log 9); every other instruction is an operation. -/
theorem exec_is (i : Instr) (s : State) : ExecIs s (exec i s) := by
  cases i
  all_goals first
    | exact consumeRecord_is _ _ s
    | exact runOp_is _ s.cfg.layout s

section

variable {I : State → Prop} (hI : Stable I) (he : Ends I) (ho : StableOutside I)

include hI he ho

theorem exec_keeps {i : Instr} {s t : State} (hs : I s) (h : exec i s = .next t) : I t := by
  cases exec_is i s with
  | operation j p hp hrun => exact runOp_keeps he (hp I hI) hs (hrun.symm.trans h)
  | consumed sel x hx => cases hx.symm.trans h; exact keeps_hcConsume ho sel x hs
  | held r x hx => cases hx.symm.trans h; exact keeps_executeHeld ho r x hs

end

/-! ### Turns of the CPU agents -/

theorem cpuTurn_faulted {s : State} {c : FatalCode} (h : s.faulted = some c) (next : State → Action) :
    cpuTurn s next = .done (.fault (.fatal c)) := by simp [cpuTurn, h]

theorem cpuTurn_refused {s : State} {r : Refusal} (hf : s.faulted = none) (h : s.refused = some r)
    (next : State → Action) : cpuTurn s next = .done (.refused r) := by simp [cpuTurn, hf, h]

theorem cpuTurn_keeps {I : State → Prop} {next : State → Action} {s : State} (h : (next (dispatch s)).Keeps I) :
    (cpuTurn s next).Keeps I := by
  unfold cpuTurn
  split
  · trivial
  · trivial
  · exact h

section

variable {I : State → Prop} (hI : Stable I) (he : Ends I) (ho : StableOutside I)

include ho in
theorem keeps_agentIdle {s : State} (hs : I s) : I (agentIdle s) := by
  unfold agentIdle
  split
  · exact hs
  · exact ho.elsewhere hs

include ho in
/-- Taking an operation off the running agent's list. -/
theorem keeps_takeOp (rest : List Instr) {s : State} (hs : I s) : I (takeOp rest s) := ho.elsewhere (s := s) hs

include hI he ho

theorem cpuAction_keeps {s : State} (hs : I s) : (cpuAction s).Keeps I := by
  have hd : I (dispatch s) := ho.elsewhere hs
  refine cpuTurn_keeps ?_
  split
  · exact run_keeps he _ _ _ _ (feed_keeps _ _ (progOf_keeps hI _ _)) hd
  · exact keeps_takeOp ho _ hd
  · exact keeps_agentIdle ho hd

theorem accessAction_keeps {s : State} (hs : I s) : (accessAction s).Keeps I := by
  have hd : I (dispatch s) := ho.elsewhere hs
  refine cpuTurn_keeps ?_
  split
  · exact runOne_keeps he _ _ (feed_keeps _ _ (progOf_keeps hI _ _)) hd
  · exact runOne_keeps he _ _ (progOf_keeps hI _ _) (keeps_takeOp ho _ hd)
  · exact keeps_agentIdle ho hd

omit hI he in
theorem dropAction_keeps (o : Owned) {s : State} (hs : I s) : (dropAction o s).Keeps I := by
  have hd : I (dispatch s) := ho.elsewhere hs
  refine cpuTurn_keeps ?_
  split
  · exact ho.drop _ o hd
  · exact hd

theorem nextAction_keeps {s : State} (hs : I s) : (nextAction s).Keeps I := by
  refine nextAction_keeps_of_cpu ho hs fun turn u hturn hu => ?_
  rcases hturn with rfl | rfl | ⟨o, rfl⟩
  · exact cpuAction_keeps hI he ho hu
  · exact accessAction_keeps hI he ho hu
  · exact dropAction_keeps ho o hu

/-- What every kind of change keeps, every step keeps. -/
theorem step_keeps {s t : State} (hs : I s) (h : step s = .next t) : I t := by
  have hn := nextAction_keeps hI he ho hs
  unfold step at h
  split at h
  · next e => exact exec_keeps hI he ho (by rw [e] at hn; exact hn) h
  · next e => rw [e, h] at hn; exact hn

end

end Sys2Proof.Machine
end

section
/-! SUPPORT. The invariant of Safety.lean is kept by each kind of access, update and change, and so by every step; the
constants and the marks likewise. -/

namespace Sys2Proof.Machine

open Sys2Proof

/-! ### What the invariant says of one part of the state -/

theorem inv_withMem {s : State} {m : Memory} (h : s.Inv) (hm : m.wf = true) : State.Inv { s with mem := m } :=
  ⟨hm, h.2⟩

theorem inv_withEventRing {s : State} {r : Option EventRing} (h : s.Inv)
    (hr : ∀ e, r = some e → e.unread ≤ Config.ringLen) : State.Inv { s with eventRing := r } := by
  obtain ⟨hmem, hplaced, hok, hapart, hlocks, -⟩ := h
  exact ⟨hmem, hplaced, hok, hapart, hlocks, hr⟩

/-- A change of the Event Ring that adds no event (R333). -/
theorem inv_mapEventRing {s : State} {f : EventRing → EventRing} (h : s.Inv) (hf : ∀ e, (f e).unread ≤ e.unread) :
    State.Inv { s with eventRing := s.eventRing.map f } := by
  refine inv_withEventRing h fun e he => ?_
  obtain ⟨e', he', rfl⟩ := Option.map_eq_some_iff.1 he
  obtain ⟨-, -, -, -, -, hunread⟩ := h
  exact (hf e').trans (hunread e' he')

theorem inv_withDbLocks {s : State} {ls : List (Nat × CpuAgent)} (h : s.Inv) (hl : (ls.map (·.1)).Nodup) :
    State.Inv { s with dbLocks := ls } := by
  obtain ⟨hmem, hplaced, hok, hapart, -, hunread⟩ := h
  exact ⟨hmem, hplaced, hok, hapart, hl, hunread⟩

/-- Fewer blocks are live (R295). -/
theorem inv_freeAllocs {s : State} (h : s.Inv) (bases : List Addr) : (freeAllocs bases s).Inv := by
  obtain ⟨hmem, hplaced, hok, hapart, hlocks, hunread⟩ := h
  exact ⟨hmem, hplaced, fun a ha => hok a (List.mem_filter.1 ha).1, hapart.filter _, hlocks, hunread⟩

/-- An admissible block is one that the invariant allows (R290, R293). -/
theorem allocOk_of_admissible {s : State} {kind : AllocKind} {size align : Nat} {p : Addr}
    (hasked : AllocAsked kind size align) (h : admissible s size align p = true) :
    AllocOk s { base := p, size := size, kind := kind } := by
  simp only [admissible, Bool.and_eq_true, decide_eq_true_eq] at h
  obtain ⟨⟨⟨⟨⟨halign, hfits⟩, -⟩, hcap⟩, hop⟩, hdb⟩ := h
  refine ⟨hfits, ?_, hcap, hop, hdb⟩
  cases kind with
  | other => trivial
  | ring => obtain ⟨rfl, rfl⟩ := hasked; exact ⟨rfl, halign⟩
  | buffer => obtain ⟨rfl, rfl⟩ := hasked; exact ⟨rfl, halign⟩
  | dcbaa => obtain ⟨rfl, rfl⟩ := hasked; exact ⟨rfl, halign⟩

/-- `Pinned::new` (R290, R292). -/
theorem inv_withBlock {s : State} {kind : AllocKind} {size align : Nat} (h : s.Inv)
    (hasked : AllocAsked kind size align) (hadm : admissible s size align s.draw.1 = true) :
    (s.withBlock size kind).Inv := by
  have hnew := allocOk_of_admissible hasked hadm
  simp only [admissible, Bool.and_eq_true, List.all_eq_true] at hadm
  obtain ⟨⟨⟨⟨-, hothers⟩, -⟩, -⟩, -⟩ := hadm
  obtain ⟨hmem, hplaced, hok, hapart, hlocks, hunread⟩ := h
  refine ⟨Memory.clear_wf hmem _ _, hplaced, fun a ha => ?_, List.pairwise_cons.2 ⟨hothers, hapart⟩,
    hlocks, hunread⟩
  rcases List.mem_cons.1 ha with rfl | ha
  · exact hnew
  · exact hok a ha

/-- The lock of a Doorbell register is recorded once (R59). -/
theorem inv_setLock {s : State} (h : s.Inv) (l : LockId) (v : Lock) : (s.setLock l v).Inv := by
  have hlocks : (s.dbLocks.map (·.1)).Nodup := by
    obtain ⟨-, -, -, -, hlocks, -⟩ := h
    exact hlocks
  have hrest : ∀ i, ((s.dbLocks.filter fun e => e.1 != i).map (·.1)).Nodup := fun i =>
    hlocks.sublist (List.filter_sublist.map _)
  cases l with
  | ring k => exact h
  | doorbell i =>
    cases v with
    | free => exact inv_withDbLocks h (hrest i)
    | held a =>
      refine inv_withDbLocks h (List.nodup_cons.2 ⟨fun hi => ?_, hrest i⟩)
      obtain ⟨e, he, rfl⟩ := List.mem_map.1 hi
      simp at he

/-! ### Accesses of registers and memory -/

section

variable {I : State → Prop} (ho : StableOutside I)

include ho

/-- A read of a register takes free values, and may put one into the register. -/
theorem keeps_readReg {s u : State} {r : Reg} {v : Word64} (hs : I s) (h : s.readReg r = .ok (v, u)) : I u := by
  cases r <;> cases h <;> exact ho.elsewhere (s := s) hs

theorem keeps_loadCrcr {s : State} (hs : I s) (v : Word64) : I (loadCrcr v s) := by
  unfold loadCrcr
  split <;> exact ho.elsewhere (s := s) hs

/-- A write of a register changes registers and the controller's hidden state, and takes free values. -/
theorem keeps_writeReg {s u : State} {r : Reg} {v : Word64} (hs : I s) (h : s.writeReg v r = .ok u) : I u := by
  cases r with
  | crcr => cases h; exact keeps_loadCrcr ho hs v
  | _ => cases h <;> exact ho.elsewhere (s := s) hs

theorem keeps_readLoc {s u : State} {l : Loc} {n : Nat} {v : Word64} (hs : I s) (h : s.readLoc n l = .ok (v, u)) :
    I u := by
  unfold State.readLoc at h
  split at h
  · cases h; exact hs
  · exact keeps_readReg ho hs h
  · split at h
    · next hr => cases h; exact keeps_readReg ho hs hr
    · cases h
  · split at h
    · next hr => cases h; exact keeps_readReg ho hs hr
    · cases h

theorem keeps_writeLoc {s u : State} {l : Loc} {n : Nat} {v : Word64} (hs : I s) (h : s.writeLoc n v l = .ok u) :
    I u := by
  unfold State.writeLoc at h
  split at h
  case h_1 a => cases h; exact keeps_storeWord ho a n v hs
  case h_2 | h_5 | h_8 => exact keeps_writeReg ho hs h
  case h_3 | h_4 => cases h; exact ho.elsewhere hs
  case h_6 => cases h; exact keeps_loadCrcr ho hs _
  case h_7 => cases h; exact ho.elsewhere (s := s) hs

end

/-! ### The invariant -/

theorem stableOutside_inv : StableOutside State.Inv where
  elsewhere h := h
  store s a b h := inv_withMem h (Memory.write_wf h.1 a b)
  post s e h _ hroom := by
    refine inv_withEventRing h fun e' he' => ?_
    cases he'
    exact of_decide_eq_true hroom
  drop s o h := by
    have hr : ∀ e, (clearOwner o s).eventRing = some e → e.unread ≤ Config.ringLen := fun e he => by
      dsimp only [clearOwner] at he
      split at he
      · cases he
      · obtain ⟨-, -, -, -, -, hunread⟩ := h
        exact hunread e he
    exact inv_freeAllocs (inv_withEventRing (s := s) h hr) (ownedBlocks o s)

theorem stable_inv : Stable State.Inv where
  log _ _ _ _ _ h := h
  draw _ h := h
  read _ _ _ _ _ h e := keeps_readLoc stableOutside_inv h e
  write _ _ _ _ _ h e := keeps_writeLoc stableOutside_inv h e
  lock _ l v h := inv_setLock h l v
  index s r i h := by
    cases r with
    | event => exact inv_mapEventRing (s := s) h fun _ => le_rfl
    | _ => exact h
  move s r i h := by
    cases r with
    | event => exact inv_mapEventRing (s := s) h fun _ => Nat.sub_le _ _
    | _ => exact h
  cso _ _ _ h := h
  deq _ _ _ h := h
  eventCso s b h := inv_mapEventRing (s := s) h fun _ => le_rfl
  restart s h := inv_mapEventRing (s := s) h fun _ => Nat.zero_le _
  installRing s place p h := by
    cases place with
    | bare k => exact inv_freeAllocs h _
    | event =>
      refine inv_withEventRing (inv_freeAllocs h (ownedBlocks (.ring .event) s)) fun e he => ?_
      cases he
      exact Nat.zero_le _
  installCommandRing _ _ h := inv_freeAllocs h _
  installTransferRing _ _ _ _ h := inv_freeAllocs h _
  installPinned _ _ _ _ h := inv_freeAllocs h _
  installDcbaa _ _ h := inv_freeAllocs h _
  alloc _ _ _ _ h hasked hadm := inv_withBlock h hasked hadm

theorem ends_inv : Ends State.Inv where
  finish _ _ h := h
  suspend _ _ _ _ h := h
  fatal _ _ h := h
  refuse _ _ h := h

/-- Settles O59: each kind of access, update and change keeps the invariant, and so does every step. -/
theorem stepKeepsTheInvariant : Obligations.StepKeepsTheInvariant := by
  unfold Obligations.StepKeepsTheInvariant
  intro s t hs h
  exact step_keeps stable_inv ends_inv stableOutside_inv hs h

/-! ### The constants -/

/-- The configuration is `c` and the Capability registers hold `k`. -/
def Constants (c : Params) (k : CapRegs) (s : State) : Prop := s.cfg = c ∧ s.cap = k

theorem stableOutside_constants (c : Params) (k : CapRegs) : StableOutside (Constants c k) where
  elsewhere h := h
  store _ _ _ h := h
  post _ _ h _ _ := h
  drop _ _ h := h

theorem stable_constants (c : Params) (k : CapRegs) : Stable (Constants c k) where
  log _ _ _ _ _ h := h
  draw _ h := h
  read _ _ _ _ _ h e := keeps_readLoc (stableOutside_constants c k) h e
  write _ _ _ _ _ h e := keeps_writeLoc (stableOutside_constants c k) h e
  lock _ _ _ h := h
  index _ _ _ h := h
  move _ _ _ h := h
  cso _ _ _ h := h
  deq _ _ _ h := h
  eventCso _ _ h := h
  restart _ h := h
  installRing _ place _ h := by cases place <;> exact h
  installCommandRing _ _ h := h
  installTransferRing _ _ _ _ h := h
  installPinned _ _ _ _ h := h
  installDcbaa _ _ h := h
  alloc _ _ _ _ h _ _ := h

theorem ends_constants (c : Params) (k : CapRegs) : Ends (Constants c k) where
  finish _ _ h := h
  suspend _ _ _ _ h := h
  fatal _ _ h := h
  refuse _ _ h := h

/-- No step changes the configuration or a Capability register (R40, R89). -/
theorem step_constants {s t : State} (h : step s = .next t) : t.cfg = s.cfg ∧ t.cap = s.cap :=
  step_keeps (stable_constants s.cfg s.cap) (ends_constants _ _) (stableOutside_constants _ _) ⟨rfl, rfl⟩ h

/-! ### The marks -/

/-- The marks are `f` and `r`. -/
def Marks (f : Option FatalCode) (r : Option Refusal) (s : State) : Prop := s.faulted = f ∧ s.refused = r

theorem stableOutside_marks (f : Option FatalCode) (r : Option Refusal) : StableOutside (Marks f r) where
  elsewhere h := h
  store _ _ _ h := h
  post _ _ h _ _ := h
  drop _ _ h := h

/-- An operation comes to a next state only where no mark is set (R37, R300, R306). -/
theorem unmarked_of_runOp_next {i : Instr} {p : Prog} {s t : State} (h : runOp i p s = .next t) : Unmarked s := by
  unfold runOp guarded at h
  split at h
  · cases h
  · next hf =>
    split at h
    · cases h
    · next hr => exact ⟨hf, hr⟩

/-- An instruction run where a mark is set is the controller's, and keeps the marks. -/
theorem exec_keepsMarks {i : Instr} {s t : State} (hs : ¬Unmarked s) (h : exec i s = .next t) :
    Marks s.faulted s.refused t := by
  have ho := stableOutside_marks s.faulted s.refused
  cases exec_is i s with
  | operation j p _ hrun => exact absurd (unmarked_of_runOp_next (hrun.symm.trans h)) hs
  | consumed sel x hx => cases hx.symm.trans h; exact keeps_hcConsume ho sel x ⟨rfl, rfl⟩
  | held r x hx => cases hx.symm.trans h; exact keeps_executeHeld ho r x ⟨rfl, rfl⟩

/-- The turn of a CPU agent where a mark is set leads to no state. -/
theorem cpuTurn_keeps_of_marked {I : State → Prop} {s : State} (hs : ¬Unmarked s) (next : State → Action) :
    (cpuTurn s next).Keeps I := by
  cases hf : s.faulted with
  | some c => rw [cpuTurn_faulted hf]; trivial
  | none =>
    cases hr : s.refused with
    | some r => rw [cpuTurn_refused hf hr]; trivial
    | none => exact absurd ⟨hf, hr⟩ hs

/-- The turns of the CPU agents are guarded by the marks. -/
theorem turnAction_ofCpu {turn : Turn} (h : turn.OfCpu) : ∃ next, ∀ s, turnAction turn s = cpuTurn s next := by
  rcases h with rfl | rfl | ⟨o, rfl⟩
  · exact ⟨_, fun s => by rw [turnAction, cpuAction]⟩
  · exact ⟨_, fun s => by rw [turnAction, accessAction]⟩
  · exact ⟨_, fun s => by rw [turnAction, dropAction]⟩

theorem turnAction_keeps_of_marked {I : State → Prop} {turn : Turn} (h : turn.OfCpu) {s : State} (hs : ¬Unmarked s) :
    (turnAction turn s).Keeps I := by
  obtain ⟨next, e⟩ := turnAction_ofCpu h
  rw [e]
  exact cpuTurn_keeps_of_marked hs next

theorem nextAction_keepsMarks {s : State} (hs : ¬Unmarked s) : (nextAction s).Keeps (Marks s.faulted s.refused) := by
  refine nextAction_keeps_of_cpu (stableOutside_marks _ _) ⟨rfl, rfl⟩ fun turn u hturn ⟨hf, hr⟩ => ?_
  exact turnAction_keeps_of_marked hturn (by rwa [Unmarked, hf, hr])

/-- Once a mark is set, no step sets another or clears one (R300, R313). -/
theorem step_keepsMarks {s t : State} (hs : ¬Unmarked s) (h : step s = .next t) :
    t.faulted = s.faulted ∧ t.refused = s.refused := by
  have hn := nextAction_keepsMarks hs
  unfold step at h
  split at h
  · next i u e =>
    rw [e] at hn
    obtain ⟨huf, hur⟩ := hn
    have hu : ¬Unmarked u := by rwa [Unmarked, huf, hur]
    exact huf ▸ hur ▸ exec_keepsMarks hu h
  · next e => rw [e, h] at hn; exact hn

theorem turnAction_faulted {turn : Turn} (ht : turn.OfCpu) {s : State} {c : FatalCode} (h : s.faulted = some c) :
    turnAction turn s = .done (.fault (.fatal c)) := by
  obtain ⟨next, e⟩ := turnAction_ofCpu ht
  rw [e, cpuTurn_faulted h]

theorem turnAction_refused {turn : Turn} (ht : turn.OfCpu) {s : State} {r : Refusal} (hf : s.faulted = none)
    (h : s.refused = some r) : turnAction turn s = .done (.refused r) := by
  obtain ⟨next, e⟩ := turnAction_ofCpu ht
  rw [e, cpuTurn_refused hf h]

/-- A step whose turn leads to an outcome at once. -/
theorem step_of_turnAction_done {s : State} {turn : Turn} {ts : List Turn} {o : Host.Outcome State Fault Refusal}
    (h : turnAction turn { s with turns := ts } = .done o) : step { s with turns := turn :: ts } = o := by
  simp [step, nextAction, h]

/-- Settles O57: each kind of access, update and change keeps the constants; a CPU agent has no turn where a mark is
set, and what is left to step then sets and clears none. -/
theorem stepKeepsConstantsAndMarks : Obligations.StepKeepsConstantsAndMarks := by
  unfold Obligations.StepKeepsConstantsAndMarks
  refine ⟨fun s t h => ?_, fun s ts turn hturn => ⟨fun c hc => ?_, fun r hf hr => ?_⟩⟩
  · obtain ⟨hcfg, hcap⟩ := step_constants h
    refine ⟨hcfg, hcap, fun c hc => ?_, fun r hr => ?_⟩
    · exact (step_keepsMarks (by simp [hc]) h).1.trans hc
    · exact (step_keepsMarks (by simp [hr]) h).2.trans hr
  · exact step_of_turnAction_done (turnAction_faulted hturn hc)
  · exact step_of_turnAction_done (turnAction_refused hturn hf hr)

end Sys2Proof.Machine
end

section
/-! SUPPORT. Holds on a lock (R85, R275): an operation whose next access takes a held lock stays in progress, and the
turns of the agent that holds leave the state as it is. -/

namespace Sys2Proof.Machine

open Sys2Proof

/-! ### An agent that holds -/

/-- The operation in progress stands before an access that has no step. -/
theorem holding_of_feed {s : State} {op : Pending} {m : State → Act} {k : Val → Prog} {on : Option Awaited}
    (hop : s.ctx.current = some op) (hfeed : feed (progOf s.cfg.layout op.instr) op.answers = .act m k)
    (hm : m s = .hold on) : holding s = true := by simp [holding, hop, hfeed, hm]

/-- And only then does the agent hold. -/
theorem feed_of_holding {s : State} {op : Pending} (hop : s.ctx.current = some op) (h : holding s = true) :
    ∃ m k on, feed (progOf s.cfg.layout op.instr) op.answers = .act m k ∧ m s = .hold on := by
  simp only [holding, hop] at h
  split at h
  · next m k hfeed =>
    split at h
    · next on hm => exact ⟨m, k, on, hfeed, hm⟩
    all_goals cases h
  all_goals cases h

/-- A held operation that goes on comes to no more than the note of what it waits for. -/
theorem resume_of_holding {s : State} {op : Pending} (hop : s.ctx.current = some op) (h : holding s = true) :
    ∃ on, resume op s = s.suspend op.instr op.answers on ∧ resumeOne op s = s.suspend op.instr op.answers on := by
  obtain ⟨m, k, on, hfeed, hm⟩ := feed_of_holding hop h
  exact ⟨on, by simp [resume, hfeed, run, hm], by simp [resumeOne, hfeed, runOne, hm]⟩

/-! ### The turns of an agent with an operation in progress -/

theorem cpuAction_of_current {s : State} {op : Pending} (hs : Unmarked s) (hop : (dispatch s).ctx.current = some op) :
    cpuAction s = .done (.next (resume op (dispatch s))) := by
  rw [cpuAction, cpuTurn_of_unmarked hs.1 hs.2, hop]

theorem accessAction_of_current {s : State} {op : Pending} (hs : Unmarked s)
    (hop : (dispatch s).ctx.current = some op) :
    accessAction s = .done (.next (resumeOne op (dispatch s))) := by
  rw [accessAction, cpuTurn_of_unmarked hs.1 hs.2, hop]

/-- The turns of an agent that holds (R275). -/
theorem step_of_holding {ts : List Turn} {op : Pending} {s : State} (hs : Unmarked s)
    (hop : (dispatch { s with turns := ts }).ctx.current = some op)
    (h : holding (dispatch { s with turns := ts }) = true) :
    ∃ on,
      let same : Host.Outcome State Fault Refusal :=
        .next ((dispatch { s with turns := ts }).suspend op.instr op.answers on)
      step { s with turns := .cpu :: ts } = same ∧ step { s with turns := .access :: ts } = same ∧
        (ts = [] → step { s with turns := [] } = same) := by
  obtain ⟨on, hresume, hresumeOne⟩ := resume_of_holding hop h
  have hcpu := cpuAction_of_current (s := { s with turns := ts }) hs hop
  have haccess := accessAction_of_current (s := { s with turns := ts }) hs hop
  rw [hresume] at hcpu
  rw [hresumeOne] at haccess
  refine ⟨on, ?_, ?_, fun hts => ?_⟩
  · simp only [step, nextAction, turnAction, hcpu]
  · simp only [step, nextAction, turnAction, haccess]
  · subst hts
    simp only [step, nextAction, hcpu]

/-! ### Operations that meet a held lock -/

@[simp] theorem lock?_suspend (s : State) (i : Instr) (as : List Val) (on : Option Awaited) (l : LockId) :
    (s.suspend i as on).lock? l = s.lock? l := by cases l <;> rfl

/-- The operation is begun and holds: nothing but the operation in progress is recorded. -/
def Waits (i : Instr) (s : State) : Prop :=
  ∃ t, exec i s = .next t ∧ holding t = true ∧ t = s.setCtx { s.ctx with current := t.ctx.current }

/-- An operation that comes, after the answers `as` and no change of the state, to a held lock. -/
theorem waits_of_feed {i : Instr} {s : State} {l : LockId} {a : CpuAgent} {p : Prog} {as : List Val} (hs : Unmarked s)
    (hl : s.lock? l = some (.held a)) (hexec : exec i s = runOp i (progOf s.cfg.layout i) s)
    (hfeed : feed (progOf s.cfg.layout i) as = acquire l p)
    (hrun : run i (progOf s.cfg.layout i) [] s = run i (acquire l p) as s) : Waits i s := by
  refine ⟨s.suspend i as none, ?_, ?_, ?_⟩
  · rw [hexec, runOp_unmarked hs.1 hs.2, hrun, run_acquire_held hl]
  · have hop : (s.suspend i as none).ctx.current = some { instr := i, answers := as, awaits := none } := by simp
    exact holding_of_feed hop hfeed (on := none) (by simp [hl])
  · rw [State.suspend_ctx, State.suspend]

/-- An operation that begins with a held lock. -/
theorem waits_of_acquire {i : Instr} {s : State} {l : LockId} {a : CpuAgent} {p : Prog} (hs : Unmarked s)
    (hl : s.lock? l = some (.held a)) (hexec : exec i s = runOp i (progOf s.cfg.layout i) s)
    (hp : progOf s.cfg.layout i = acquire l p) : Waits i s :=
  waits_of_feed (as := []) hs hl hexec (by rw [hp]; rfl) (by rw [hp])

/-- An operation that rings a doorbell whose lock is held (R268). -/
theorem waits_of_ringBell {i : Instr} {s : State} {reg : Nat} {w : Word32} {a : CpuAgent} (hs : Unmarked s)
    (hreg : reg < s.cfg.numDoorbells) (hl : s.lock? (.doorbell reg) = some (.held a))
    (hexec : exec i s = runOp i (progOf s.cfg.layout i) s) (hp : progOf s.cfg.layout i = ringBell reg w) :
    Waits i s :=
  waits_of_feed (as := [.unit]) hs hl hexec (by rw [hp]; rfl) (by simp [hp, ringBell, require, run, hreg])

/-- `notify` of operands that fit their widths rings the doorbell (R268). -/
theorem progNotify_of_fits {reg target stream : Nat} (ht : target < 256) (hst : stream < 65536) :
    progNotify reg target stream = ringBell reg (dbWord (BitVec.ofNat 8 target) (BitVec.ofNat 16 stream)) := by
  simp [progNotify, needs, fits, ht, hst]

/-- Settles O43: each operation comes, before any change, to an access that takes the held lock; and the turns of an
agent that holds find it at that access. -/
theorem heldLockIsWaitedFor : Obligations.HeldLockIsWaitedFor := by
  unfold Obligations.HeldLockIsWaitedFor
  refine ⟨fun k reg target stream a c p x s hs ht hst hreg =>
      ⟨fun hl => ⟨?notify, ?dbword⟩, fun hl i hi => ?ringOp⟩,
    fun ts op s hs hop h => step_of_holding hs hop h⟩
  case notify => exact waits_of_ringBell hs hreg hl rfl (progNotify_of_fits ht hst)
  case dbword => exact waits_of_ringBell hs hreg hl rfl rfl
  case ringOp =>
    simp only [List.mem_cons, List.not_mem_nil, or_false] at hi
    rcases hi with rfl | rfl | rfl | rfl | rfl | rfl | rfl | rfl | rfl | rfl | rfl | rfl | rfl
    all_goals exact waits_of_acquire hs hl rfl rfl

end Sys2Proof.Machine
end

section
/-! SUPPORT. Registers of the three blocks (R54): which word is which register, what a read and a write of one does,
and the accessor operations on them. -/

namespace Sys2Proof.Machine

open Sys2Proof

/-! ### Spans of a 32-bit word (R143, R144) -/

theorem maskOf_getLsbD (width j : Nat) : (maskOf width).getLsbD j = decide (j < 64 ∧ j < width) := by
  unfold maskOf
  rw [BitVec.getLsbD_ofNat, Nat.testBit_two_pow_sub_one, Bool.decide_and]

/-- `read_bits` answers the span, shifted down (R143). -/
theorem readSpan_setWidth (shift width : Nat) (x : Word32) :
    readSpan shift width (x.setWidth 64) = BitVec.ofNat 64 (x.toNat / 2 ^ shift % 2 ^ width) := by
  have hx : (x.setWidth 64 : Word64).toNat = x.toNat := by
    rw [BitVec.toNat_setWidth]
    have := x.isLt
    omega
  refine (readField_eq { shift := shift, width := width } (x.setWidth 64)).trans (BitVec.eq_of_toNat_eq ?_)
  rw [BitVec.toNat_setWidth, BitVec.extractLsb'_toNat, hx, BitVec.toNat_ofNat, Nat.shiftRight_eq_div_pow]

/-- `write_bits` replaces the span and keeps every other bit (R144). -/
theorem writeSpan_getLsbD {shift width : Nat} (old : Word32) (v : Word64) {i : Nat} (hi : i < 32) :
    ((writeSpan 32 shift width (old.setWidth 64) v).setWidth 32).getLsbD i =
      if shift ≤ i ∧ i < shift + width then v.getLsbD (i - shift) else old.getLsbD i := by
  have h64 : i < 64 := by omega
  have hs : i - shift < 64 := by omega
  simp only [writeSpan, BitVec.getLsbD_setWidth, BitVec.getLsbD_or, BitVec.getLsbD_and, BitVec.getLsbD_not,
    BitVec.getLsbD_shiftLeft, maskOf_getLsbD]
  by_cases hlow : shift ≤ i
  · have hge : ¬i < shift := by omega
    by_cases hhigh : i < shift + width
    · have hw : i - shift < width := by omega
      simp [hi, h64, hs, hlow, hge, hhigh, hw]
    · have hw : ¬i - shift < width := by omega
      simp [hi, h64, hlow, hhigh, hw]
  · have hlt : i < shift := by omega
    simp [hi, h64, hlow, hlt]

/-- A field above another, as one number. -/
theorem shiftLeft_or_ofNat {a b k : Nat} (ha : a * 2 ^ k + b < 2 ^ 64) (hb : b < 2 ^ k) :
    BitVec.ofNat 64 a <<< k ||| BitVec.ofNat 64 b = BitVec.ofNat 64 (a * 2 ^ k + b) := by
  have hle : a ≤ a * 2 ^ k := Nat.le_mul_of_pos_right a (Nat.two_pow_pos k)
  refine BitVec.eq_of_toNat_eq ?_
  rw [BitVec.toNat_or, BitVec.toNat_shiftLeft, BitVec.toNat_ofNat, BitVec.toNat_ofNat, BitVec.toNat_ofNat,
    Nat.mod_eq_of_lt (by omega : a < 2 ^ 64), Nat.mod_eq_of_lt (by omega : b < 2 ^ 64), Nat.shiftLeft_eq,
    Nat.mod_eq_of_lt (by omega : a * 2 ^ k < 2 ^ 64), Nat.mod_eq_of_lt ha, ← Nat.shiftLeft_eq,
    Nat.shiftLeft_add_eq_or_of_lt hb]

/-- The two halves of a 64-bit word, joined (R79, R91). -/
theorem joinWords_halves (v : Word64) : joinWords (loWord v) (hiWord v) = v := by
  refine BitVec.eq_of_getLsbD_eq fun i hi => ?_
  simp only [joinWords, loWord, hiWord, BitVec.getLsbD_or, BitVec.getLsbD_and, BitVec.getLsbD_shiftLeft,
    BitVec.getLsbD_ushiftRight]
  interval_cases i <;> simp

@[simp] theorem loWord_joinWords (lo hi : Word64) : loWord (joinWords lo hi) = loWord lo := by
  refine BitVec.eq_of_getLsbD_eq fun i hi => ?_
  simp only [joinWords, loWord, BitVec.getLsbD_or, BitVec.getLsbD_and, BitVec.getLsbD_shiftLeft]
  interval_cases i <;> simp

/-- A 64-bit word written in two halves, low first, is the word, whatever the high half held before (R91). -/
theorem joinWords_written (v old : Word64) : joinWords (joinWords (loWord v) old) (hiWord v) = v := by
  have e : joinWords (joinWords (loWord v) old) (hiWord v) = joinWords (loWord v) (hiWord v) := by
    rw [joinWords, loWord_joinWords, joinWords]
  rw [e, joinWords_halves]

/-! ### Which word is which register -/

/-- The widths of an access (R78). -/
abbrev AccessWidth (n : Nat) : Prop := n = 1 ∨ n = 2 ∨ n = 4 ∨ n = 8

section

variable {s : State} {u : Use} {b : Block} {off n : Nat}

theorem resolve_mmio_of_badWidth (hn : ¬AccessWidth n) : resolve s u (.mmio b off n) = .error .wrongWidth := by
  rw [resolve, if_pos hn]

theorem resolve_mmio_of_misaligned (hn : AccessWidth n) (hoff : off % n ≠ 0) :
    resolve s u (.mmio b off n) = .error .misaligned := by
  rw [resolve, if_neg (not_not.2 hn), if_pos hoff]

theorem resolve_mmio_of_noRegister (hn : AccessWidth n) (hoff : off % n = 0) (hreg : regAt s b off = none) :
    resolve s u (.mmio b off n) = .error .noRegister := by
  rw [resolve, if_neg (not_not.2 hn), if_neg (not_not.2 hoff), hreg]

theorem resolve_mmio_of_otherWidth {r : Reg} {w : Nat} (hn : AccessWidth n) (hoff : off % n = 0)
    (hreg : regAt s b off = some (r, w)) (hw : n ≠ w) : resolve s u (.mmio b off n) = .error .wrongWidth := by
  simp only [resolve, if_neg (not_not.2 hn), if_neg (not_not.2 hoff), hreg, if_pos hw]

/-- A register is resolved where the use is allowed (R54). -/
theorem resolve_mmio_of_allowed {r : Reg} (hn : AccessWidth n) (hoff : off % n = 0)
    (hreg : regAt s b off = some (r, n)) (huse : refusedUse u r = none) :
    resolve s u (.mmio b off n) = .ok (.reg r) := by
  simp only [resolve, if_neg (not_not.2 hn), if_neg (not_not.2 hoff), hreg, if_neg (not_not.2 (Eq.refl n)), huse]

theorem resolve_mmio_of_forbidden {r : Reg} {why : Refusal} (hn : AccessWidth n) (hoff : off % n = 0)
    (hreg : regAt s b off = some (r, n)) (huse : refusedUse u r = some why) :
    resolve s u (.mmio b off n) = .error why := by
  simp only [resolve, if_neg (not_not.2 hn), if_neg (not_not.2 hoff), hreg, if_neg (not_not.2 (Eq.refl n)), huse]

end

/-! ### The register layout at the offsets of R41 to R52 -/

section

variable {s : State} (hl : StandardLayout s)

include hl

theorem regAt_cap (off : Nat) : regAt s .cap off = capReg .standard off := by rw [regAt, hl]

theorem regAt_op (off : Nat) : regAt s .op off = opReg .standard (opSize s) off := by rw [regAt, hl]

theorem regAt_op_other {off : Nat} (hoff : off % 4 = 0) (hsize : off < opSize s)
    (hnot : off ∉ [0x00, 0x04, 0x08, 0x14, 0x18, 0x1C, 0x30, 0x34, 0x38]) :
    regAt s .op off = some (.opOther off, 4) := by
  have hnone : (opTable .standard).lookup off = none := by
    refine List.lookup_eq_none_iff.2 fun e he => ?_
    simp only [opTable, Layout.standard, List.mem_cons, List.not_mem_nil, or_false] at he hnot
    rcases he with rfl | rfl | rfl | rfl | rfl | rfl | rfl | rfl | rfl <;> simp <;> omega
  rw [regAt_op hl, opReg, hnone]
  exact if_pos ⟨hoff, hsize⟩

/-- Doorbell register `i` stands at offset `4 * i` (R52). -/
theorem regAt_db {i : Nat} (hi : i < s.cfg.numDoorbells) : regAt s .db (4 * i) = some (.doorbell i, 4) := by
  have hstride : s.cfg.layout.doorbellStride = 4 := by rw [hl]; rfl
  have hdiv : 4 * i / 4 = i := by omega
  have hmod : 4 * i % 4 = 0 := by omega
  simp [regAt, dbReg, hstride, hdiv, hmod, hi]

end

/-- The words of the Capability block are aligned to their width, and software reads them and does not write them
(R54, R77). -/
theorem capReg_standard {off n : Nat} {r : Reg} (h : capReg .standard off = some (r, n)) :
    AccessWidth n ∧ off % n = 0 ∧ refusedUse { reads := true, writes := false } r = none ∧
      ∀ b, refusedUse { reads := b, writes := true } r = some .capabilityWrite := by
  have all : ∀ e ∈ capTable .standard, AccessWidth e.2.2 ∧ e.1 % e.2.2 = 0 ∧
      refusedUse { reads := true, writes := false } e.2.1 = none ∧
      ∀ b, refusedUse { reads := b, writes := true } e.2.1 = some .capabilityWrite := by decide
  obtain ⟨l₁, l₂, hsplit, -⟩ := List.lookup_eq_some_iff.1 h
  exact all (off, r, n) (hsplit ▸ List.mem_append_right _ List.mem_cons_self)

/-! ### Refused accesses (R306) -/

/-- An accessor whose word does not resolve is refused before it does anything (R311). -/
theorem runOp_withWord_refused {s : State} {w : WordRef} {u : Use} {why : Refusal} (hs : Unmarked s)
    (h : resolve s u w = .error why) (k : Loc → Prog) (i : Instr) :
    runOp i (withWord w u k) s = .next (raiseRefusal why s) := by
  simp [runOp_unmarked hs.1 hs.2, withWord, run, h]

/-- A word that resolves for no use is refused to every accessor operation. -/
theorem accessors_refused {s : State} {w : WordRef} {why : Refusal} (hs : Unmarked s)
    (h : ∀ u, resolve s u w = .error why) (shift width : Nat) (v : Word64) :
    ∀ i ∈ [Instr.read w, .write w v, .readBits w shift width, .writeBits w shift width v],
      exec i s = .next (raiseRefusal why s) := by
  simp only [List.forall_mem_cons, List.not_mem_nil, false_imp_iff, implies_true, and_true]
  exact ⟨runOp_withWord_refused hs (h _) _ _, runOp_withWord_refused hs (h _) _ _,
    runOp_withWord_refused hs (h _) _ _, runOp_withWord_refused hs (h _) _ _⟩

/-- A word that resolves for no use that reads is refused to the operations that read it. -/
theorem readers_refused {s : State} {w : WordRef} {why : Refusal} (hs : Unmarked s)
    (h : ∀ b, resolve s { reads := true, writes := b } w = .error why) (shift width : Nat) (v : Word64) :
    ∀ i ∈ [Instr.read w, .readBits w shift width, .writeBits w shift width v],
      exec i s = .next (raiseRefusal why s) := by
  simp only [List.forall_mem_cons, List.not_mem_nil, false_imp_iff, implies_true, and_true]
  exact ⟨runOp_withWord_refused hs (h _) _ _, runOp_withWord_refused hs (h _) _ _,
    runOp_withWord_refused hs (h _) _ _⟩

/-- A word that resolves for no use that writes is refused to the operations that write it. -/
theorem writers_refused {s : State} {w : WordRef} {why : Refusal} (hs : Unmarked s)
    (h : ∀ b, resolve s { reads := b, writes := true } w = .error why) (shift width : Nat) (v : Word64) :
    ∀ i ∈ [Instr.write w v, .writeBits w shift width v], exec i s = .next (raiseRefusal why s) := by
  simp only [List.forall_mem_cons, List.not_mem_nil, false_imp_iff, implies_true, and_true]
  exact ⟨runOp_withWord_refused hs (h _) _ _, runOp_withWord_refused hs (h _) _ _⟩

/-- Settles O22: no accessor's word resolves. -/
theorem forbiddenAccessesAreRefused : Obligations.ForbiddenAccessesAreRefused := by
  unfold Obligations.ForbiddenAccessesAreRefused
  refine fun shift width v s hs hl => ⟨fun k hk => ?doorbell, fun off n r hreg => ?capability, fun b off n =>
    ⟨fun hn hoff => ?misaligned, fun hn hoff r w hreg hw => ?otherWidth, fun hn hoff hreg => ?noRegister,
      fun hn => ?badWidth⟩⟩
  case doorbell =>
    exact readers_refused hs (fun _ =>
      resolve_mmio_of_forbidden (by decide) (Nat.mul_mod_right 4 k) (regAt_db hl hk) rfl) shift width v
  case capability =>
    rw [hl] at hreg
    obtain ⟨hn, hoff, -, huse⟩ := capReg_standard hreg
    exact writers_refused hs (fun b =>
      resolve_mmio_of_forbidden hn hoff ((regAt_cap hl off).trans hreg) (huse b)) shift width v
  case misaligned => exact accessors_refused hs (fun _ => resolve_mmio_of_misaligned hn hoff) shift width v
  case otherWidth => exact accessors_refused hs (fun _ => resolve_mmio_of_otherWidth hn hoff hreg hw) shift width v
  case noRegister => exact accessors_refused hs (fun _ => resolve_mmio_of_noRegister hn hoff hreg) shift width v
  case badWidth => exact accessors_refused hs (fun _ => resolve_mmio_of_badWidth hn) shift width v

end Sys2Proof.Machine
end

section
/-! SUPPORT. How an access of a register runs (R79, R91, R141 to R144), and from it what the operations on registers
answer and change. -/

namespace Sys2Proof.Machine

open Sys2Proof

/-! ### One access, and the two forms of a word's (R79) -/

theorem comes_readOnce {s s' : State} {l : Loc} {n : Nat} {v : Word64} (h : s.readLoc n l = .ok (v, s'))
    (k : Word64 → Prog) : Comes (readOnce l n k) s (k v) (s'.log .read l n v) :=
  Comes.of_done (v := .word v) (by simp [h])

theorem comes_writeOnce {s s' : State} {l : Loc} {n : Nat} {v : Word64} (h : s.writeLoc n v l = .ok s') (k : Prog) :
    Comes (writeOnce l n v k) s k (s'.log .write l n (v &&& maskOf (8 * n))) :=
  Comes.of_done (v := .unit) (by simp [h])

theorem comes_readWord_whole {s : State} {n : Nat} (h : n = 8 → s.cfg.split64 = false) (l : Loc)
    (k : Word64 → Prog) : Comes (readWord l n k) s (readOnce l n k) s := by
  unfold readWord
  split
  · next hn =>
    subst hn
    exact Comes.of_done (v := .flag false) (by simp [h rfl])
  · exact Comes.refl _ s

theorem comes_readWord_split {s : State} (h : s.cfg.split64 = true) (l : Loc) (k : Word64 → Prog) :
    Comes (readWord l 8 k) s (readOnce l.lo 4 fun lo => readOnce l.hi 4 fun hi => k (joinWords lo hi)) s :=
  Comes.of_done (v := .flag true) (by simp [h])

theorem comes_writeWord_whole {s : State} {n : Nat} (h : n = 8 → s.cfg.split64 = false) (l : Loc) (v : Word64)
    (k : Prog) : Comes (writeWord l n v k) s (writeOnce l n v k) s := by
  unfold writeWord
  split
  · next hn =>
    subst hn
    exact Comes.of_done (v := .flag false) (by simp [h rfl])
  · exact Comes.refl _ s

theorem comes_writeWord_split {s : State} (h : s.cfg.split64 = true) (l : Loc) (v : Word64) (k : Prog) :
    Comes (writeWord l 8 v k) s (writeOnce l.lo 4 (loWord v) (writeOnce l.hi 4 (hiWord v) k)) s :=
  Comes.of_done (v := .flag true) (by simp [h])

/-! ### Reads of registers -/

/-- A read of `r` answers `v` and changes nothing, whatever accesses have been made. -/
def Answers (s : State) (r : Reg) (v : Word64) : Prop :=
  ∀ tr, ({ s with trace := tr } : State).readReg r = .ok (v, { s with trace := tr })

/-- A read of a register that keeps its value, in one access or in two halves. -/
theorem comes_readWord_reg {s : State} {r : Reg} {v : Word64} (h : Answers s r v) (n : Nat) (k : Word64 → Prog) :
    ∃ tr, Comes (readWord (.reg r) n k) s (k v) { s with trace := tr } := by
  by_cases hn : n = 8 ∧ s.cfg.split64 = true
  · obtain ⟨rfl, hsplit⟩ := hn
    have hlo : s.readLoc 4 (.regLo r) = .ok (loWord v, s) := by
      have := h s.trace
      simp only [State.readLoc, this]
    have hhi : (s.log .read (.regLo r) 4 (loWord v)).readLoc 4 (.regHi r) =
        .ok (hiWord v, s.log .read (.regLo r) 4 (loWord v)) := by
      have := h (s.log .read (.regLo r) 4 (loWord v)).trace
      simp only [State.readLoc, State.log] at this ⊢
      rw [this]
    have hread := (comes_readWord_split hsplit (.reg r) k).trans ((comes_readOnce hlo _).trans (comes_readOnce hhi _))
    rw [joinWords_halves] at hread
    exact ⟨_, hread⟩
  · have hwhole : n = 8 → s.cfg.split64 = false := fun h8 => Bool.eq_false_iff.2 fun ht => hn ⟨h8, ht⟩
    have hr : s.readLoc n (.reg r) = .ok (v, s) := h s.trace
    exact ⟨_, (comes_readWord_whole hwhole _ k).trans (comes_readOnce hr k)⟩

/-- `read_bits` of such a register (R143). -/
theorem comes_readBitsAt_reg {s : State} {r : Reg} {v : Word64} (h : Answers s r v) {n shift width : Nat}
    (hb : shift + width ≤ 8 * n) (k : Word64 → Prog) :
    ∃ tr, Comes (readBitsAt (.reg r) n shift width k) s (k (readSpan shift width v)) { s with trace := tr } := by
  unfold readBitsAt
  rw [if_neg (by omega)]
  exact comes_readWord_reg h n _

/-! ### Writes of registers -/

/-- A register whose write is one access (R79). -/
theorem comes_writeWord_reg {s s' : State} {r : Reg} {n : Nat} {v : Word64} (hn : n ≠ 8)
    (h : s.writeReg v r = .ok s') (k : Prog) :
    ∃ tr, Comes (writeWord (.reg r) n v k) s k { s' with trace := tr } :=
  ⟨_, (comes_writeWord_whole (fun h8 => absurd h8 hn) _ v k).trans (comes_writeOnce (l := .reg r) (n := n) h k)⟩

/-- `DCBAAP` takes the 8 bytes, in one access or in two halves (R91). -/
theorem comes_writeWord_dcbaap (v : Word64) (k : Prog) (s : State) :
    ∃ tr, Comes (writeWord (.reg .dcbaap) 8 v k) s k { loadDcbaap v s with trace := tr } := by
  cases hsplit : s.cfg.split64 with
  | false =>
    exact ⟨_, (comes_writeWord_whole (fun _ => hsplit) _ v k).trans (comes_writeOnce (l := .reg .dcbaap) rfl k)⟩
  | true =>
    have h := (comes_writeWord_split hsplit (.reg .dcbaap) v k).trans
      ((comes_writeOnce (l := .regLo .dcbaap) rfl _).trans (comes_writeOnce (l := .regHi .dcbaap) rfl k))
    dsimp only [State.log_op] at h
    rw [joinWords_written] at h
    exact ⟨_, h⟩

/-- Loading `CRCR` does not depend on what it held, nor on the accesses made. -/
theorem loadCrcr_withCrcr (v x : Word64) (tr : List Access) (s : State) :
    loadCrcr v { s with op := { s.op with crcr := x }, trace := tr } = { loadCrcr v s with trace := tr } := by
  unfold loadCrcr
  dsimp only
  split <;> rfl

/-- So does `CRCR`, and the controller loads its pointer (R266). -/
theorem comes_writeWord_crcr (v : Word64) (k : Prog) (s : State) :
    ∃ tr, Comes (writeWord (.reg .crcr) 8 v k) s k { loadCrcr v s with trace := tr } := by
  cases hsplit : s.cfg.split64 with
  | false =>
    exact ⟨_, (comes_writeWord_whole (fun _ => hsplit) _ v k).trans (comes_writeOnce (l := .reg .crcr) rfl k)⟩
  | true =>
    have h := (comes_writeWord_split hsplit (.reg .crcr) v k).trans
      ((comes_writeOnce (l := .regLo .crcr) rfl _).trans (comes_writeOnce (l := .regHi .crcr) rfl k))
    dsimp only [State.log] at h
    rw [joinWords_written, loadCrcr_withCrcr] at h
    exact ⟨_, h⟩

/-- `write_bits` of a register: one read, one write (R144). -/
theorem comes_writeBitsAt_reg {s s' : State} {r : Reg} {old : Word64} {n shift width : Nat} {v : Word64} (hn : n ≠ 8)
    (hold : Answers s r old) (hb : shift + width ≤ 8 * n)
    (h : ∀ tr, ({ s with trace := tr } : State).writeReg (writeSpan (8 * n) shift width old v) r =
      .ok { s' with trace := tr }) (k : Prog) :
    ∃ tr, Comes (writeBitsAt (.reg r) n shift width v k) s k { s' with trace := tr } := by
  unfold writeBitsAt
  rw [if_neg (by omega)]
  obtain ⟨tr, hread⟩ :=
    comes_readWord_reg hold n fun old => writeWord (.reg r) n (writeSpan (8 * n) shift width old v) k
  obtain ⟨tr', hwrite⟩ := comes_writeWord_reg hn (h tr) k
  exact ⟨tr', hread.trans hwrite⟩

/-! ### The accessor operations on a register -/

/-- An accessor operation whose word resolves is what it does at the word's place. -/
theorem runOp_withWord_ret {s s' : State} {w : WordRef} {u : Use} {l : Loc} {res : Result} (hs : Unmarked s)
    (hw : resolve s u w = .ok l) (k : Loc → Prog) (h : Comes (k l) s (.ret res) s') (i : Instr) :
    runOp i (withWord w u k) s = .next (s'.finish res) :=
  runOp_ret hs.1 hs.2 ((comes_withWord hw k).trans h) i

/-- The word of block `b` at `off` is register `r`, of `n` bytes, and software may use it so (R54, R76, R78). -/
structure Accessible (s : State) (u : Use) (b : Block) (off n : Nat) (r : Reg) : Prop where
  width : AccessWidth n
  aligned : off % n = 0
  stands : regAt s b off = some (r, n)
  allowed : refusedUse u r = none

theorem Accessible.resolve {s : State} {u : Use} {b : Block} {off n : Nat} {r : Reg} (h : Accessible s u b off n r) :
    resolve s u (.mmio b off n) = .ok (.reg r) := resolve_mmio_of_allowed h.width h.aligned h.stands h.allowed

section

variable {s : State} {b : Block} {off n : Nat} {r : Reg} (hs : Unmarked s)

include hs

/-- `read()` (R141). -/
theorem exec_read_reg {v : Word64} (hw : Accessible s { reads := true, writes := false } b off n r)
    (h : Answers s r v) : ∃ t, exec (.read (.mmio b off n)) s = .next t ∧ Answered s t (.word v) := by
  obtain ⟨tr, hread⟩ := comes_readWord_reg h n fun v => .ret (.word v)
  have hrun := runOp_withWord_ret hs hw.resolve (fun l => readWord l n fun v => .ret (.word v)) hread
  exact ⟨_, hrun _, rfl⟩

/-- `read()` of an opaque register (R51, U11; log 19). -/
theorem exec_read_free {v : Word64} {op : OpRegs} (hw : Accessible s { reads := true, writes := false } b off 4 r)
    (h : s.readReg r = .ok (v, { s.draw.2 with op := op })) :
    ∃ t, exec (.read (.mmio b off 4)) s = .next t ∧
      t = { s.draw.2.finish (.word v) with op := op, trace := t.trace } := by
  have hread := (comes_readWord_whole (n := 4) (s := s) (absurd · (by decide)) (.reg r) fun v => .ret (.word v)).trans
    (comes_readOnce (l := .reg r) (n := 4) h _)
  have hrun := runOp_withWord_ret hs hw.resolve (fun l => readWord l 4 fun v => .ret (.word v)) hread
  exact ⟨_, hrun _, rfl⟩

/-- `read_bits` (R143). -/
theorem exec_readBits_reg {shift width : Nat} {old : Word32}
    (hw : Accessible s { reads := true, writes := false } b off 4 r) (h : Answers s r (old.setWidth 64))
    (hb : shift + width ≤ 32) :
    ∃ t, exec (.readBits (.mmio b off 4) shift width) s = .next t ∧
      Answered s t (.word (BitVec.ofNat 64 (old.toNat / 2 ^ shift % 2 ^ width))) := by
  obtain ⟨tr, hread⟩ := comes_readBitsAt_reg h (n := 4) hb fun v => .ret (.word v)
  rw [readSpan_setWidth] at hread
  have hrun := runOp_withWord_ret hs hw.resolve (fun l => readBitsAt l 4 shift width fun v => .ret (.word v)) hread
  exact ⟨_, hrun _, rfl⟩

/-- `write` (R142). -/
theorem exec_write_reg {v : Word64} {s' : State} (hw : Accessible s { reads := false, writes := true } b off n r)
    (h : ∃ tr, Comes (writeWord (.reg r) n v (.ret .unit)) s (.ret .unit) { s' with trace := tr }) :
    ∃ tr, exec (.write (.mmio b off n) v) s = .next (State.finish { s' with trace := tr } .unit) := by
  obtain ⟨tr, hwrite⟩ := h
  exact ⟨tr, runOp_withWord_ret hs hw.resolve (fun l => writeWord l n v (.ret .unit)) hwrite _⟩

/-- `write_bits` (R144). -/
theorem exec_writeBits_reg {shift width : Nat} {old : Word32} {v : Word64} {s' : State}
    (hw : Accessible s { reads := true, writes := true } b off 4 r) (hold : Answers s r (old.setWidth 64))
    (hb : shift + width ≤ 32)
    (h : ∀ tr, ({ s with trace := tr } : State).writeReg (writeSpan 32 shift width (old.setWidth 64) v) r =
      .ok { s' with trace := tr }) :
    ∃ tr, exec (.writeBits (.mmio b off 4) shift width v) s = .next (State.finish { s' with trace := tr } .unit) := by
  obtain ⟨tr, hwrite⟩ := comes_writeBitsAt_reg (n := 4) (by decide) hold hb h (.ret .unit)
  exact ⟨tr, runOp_withWord_ret hs hw.resolve (fun l => writeBitsAt l 4 shift width v (.ret .unit)) hwrite _⟩

/-- An operation that answers a field of a register (R256 to R258, R261). -/
theorem exec_readField {i : Instr} {r : Reg} {v : Word64} {shift width : Nat} (f : Word64 → Result)
    (h : Answers s r v) (hb : shift + width ≤ 32)
    (hexec : exec i s = runOp i (readBitsAt (.reg r) 4 shift width fun v => .ret (f v)) s) :
    ∃ t, exec i s = .next t ∧ Answered s t (f (readSpan shift width v)) := by
  obtain ⟨tr, hread⟩ := comes_readBitsAt_reg h (n := 4) hb fun v => .ret (f v)
  exact ⟨_, hexec.trans (runOp_ret hs.1 hs.2 hread i), rfl⟩

end

/-! ### Reads of the Capability and Operational blocks, and the derived capacities -/

section

variable {s : State} (hs : Unmarked s) (hl : StandardLayout s)

include hl

theorem accessible_cap {off n : Nat} {r : Reg} (hreg : capReg .standard off = some (r, n)) :
    Accessible s { reads := true, writes := false } .cap off n r := by
  obtain ⟨hn, hoff, huse, -⟩ := capReg_standard hreg
  exact ⟨hn, hoff, (regAt_cap hl off).trans hreg, huse⟩

theorem accessible_op {off n : Nat} {r : Reg} {u : Use} (hn : AccessWidth n) (hoff : off % n = 0)
    (hreg : opReg .standard (opSize s) off = some (r, n)) (huse : refusedUse u r = none) :
    Accessible s u .op off n r :=
  ⟨hn, hoff, (regAt_op hl off).trans hreg, huse⟩

include hs

/-- The scratchpad-buffer count: two reads, the high half first (R259). -/
theorem exec_maxScratchpadBuffers :
    ∃ t, exec .maxScratchpadBuffers s = .next t ∧
      Answered s t (.word (BitVec.ofNat 64
        (s.cap.hcsparams2.toNat / 2 ^ 21 % 2 ^ 5 * 32 + s.cap.hcsparams2.toNat / 2 ^ 27 % 2 ^ 5))) := by
  have hexec : exec .maxScratchpadBuffers s =
      runOp .maxScratchpadBuffers (progMaxScratchpadBuffers .standard) s :=
    congrArg (fun l => runOp .maxScratchpadBuffers (progMaxScratchpadBuffers l) s) hl
  have hreads : ∀ tr, Answers { s with trace := tr } .hcsparams2 (s.cap.hcsparams2.setWidth 64) := fun _ _ => rfl
  have hsum := shiftLeft_or_ofNat (a := s.cap.hcsparams2.toNat / 2 ^ 21 % 2 ^ 5)
    (b := s.cap.hcsparams2.toNat / 2 ^ 27 % 2 ^ 5) (k := 5) (by omega) (by omega)
  obtain ⟨tr, hhigh⟩ := comes_readBitsAt_reg (hreads s.trace) (n := 4) (shift := 21) (width := 5) (by decide)
    fun hi => readBitsAt (.reg .hcsparams2) 4 27 5 fun lo => .ret (.word ((hi <<< 5) ||| lo))
  obtain ⟨tr', hlow⟩ := comes_readBitsAt_reg (hreads tr) (n := 4) (shift := 27) (width := 5) (by decide)
    fun lo => .ret (.word ((readSpan 21 5 (s.cap.hcsparams2.setWidth 64) <<< 5) ||| lo))
  have hread := hhigh.trans hlow
  rw [readSpan_setWidth, readSpan_setWidth, hsum] at hread
  exact ⟨_, hexec.trans (runOp_ret hs.1 hs.2 hread _), rfl⟩

/-- `is_halted()` answers HCH (R261). -/
theorem exec_isHalted : ∃ t, exec .isHalted s = .next t ∧ Answered s t (.flag (s.op.usbsts.getLsbD 0)) := by
  have h := exec_readField hs (i := .isHalted) (r := .usbsts) (v := s.op.usbsts.setWidth 64) (shift := 0) (width := 1)
    (fun v => .flag (v.getLsbD 0)) (fun _ => rfl) (by decide)
    (congrArg (fun l => runOp .isHalted (progIsHalted l) s) hl)
  rwa [readSpan_cycle] at h

end

/-- Settles O20: each register stands at its offset; its value is read, or, of an opaque one, a free value. -/
theorem registerReadsAndCapacities : Obligations.RegisterReadsAndCapacities := by
  unfold Obligations.RegisterReadsAndCapacities
  intro s hs hl
  have cap {off n : Nat} {r : Reg} {v : Word64} (hreg : capReg .standard off = some (r, n)) (h : Answers s r v) :=
    exec_read_reg hs (accessible_cap hl hreg) h
  have op {off n : Nat} {r : Reg} {v : Word64} (hreg : opReg .standard (opSize s) off = some (r, n))
      (hn : AccessWidth n) (hoff : off % n = 0) (huse : refusedUse { reads := true, writes := false } r = none)
      (h : Answers s r v) := exec_read_reg hs (accessible_op hl hn hoff hreg huse) h
  have free {off : Nat} {r : Reg} {v : Word64} {regs : OpRegs} (hreg : regAt s .op off = some (r, 4))
      (hoff : off % 4 = 0) (huse : refusedUse { reads := true, writes := false } r = none)
      (h : s.readReg r = .ok (v, { s.draw.2 with op := regs })) := exec_read_free hs ⟨by decide, hoff, hreg, huse⟩ h
  refine ⟨cap rfl fun _ => rfl, cap rfl fun _ => rfl, cap rfl fun _ => rfl, cap rfl fun _ => rfl,
    cap rfl fun _ => rfl, cap rfl fun _ => rfl, cap rfl fun _ => rfl, cap rfl fun _ => rfl,
    cap rfl fun _ => rfl, cap rfl fun _ => rfl,
    op rfl (by decide) rfl rfl fun _ => rfl, op rfl (by decide) rfl rfl fun _ => rfl,
    op rfl (by decide) rfl rfl fun _ => rfl, op rfl (by decide) rfl rfl fun _ => rfl,
    op rfl (by decide) rfl rfl fun _ => rfl,
    free ((regAt_op hl _).trans rfl) rfl rfl rfl, free ((regAt_op hl _).trans rfl) rfl rfl rfl,
    fun off hoff hsize hnot => free (regAt_op_other hl hoff hsize hnot) hoff rfl rfl,
    ?_, ?_, ?_, exec_maxScratchpadBuffers hs hl, exec_isHalted hs hl⟩
  all_goals rw [← readSpan_setWidth]
  · exact exec_readField hs (fun v => .word v) (fun _ => rfl) (by decide)
      (congrArg (fun l => runOp .maxDeviceSlots (progMaxDeviceSlots l) s) hl)
  · exact exec_readField hs (fun v => .word v) (fun _ => rfl) (by decide)
      (congrArg (fun l => runOp .maxInterrupters (progMaxInterrupters l) s) hl)
  · exact exec_readField hs (fun v => .word v) (fun _ => rfl) (by decide)
      (congrArg (fun l => runOp .maxPorts (progMaxPorts l) s) hl)

/-! ### Writes of the Operational and Doorbell registers -/

/-- A register of 32 bits that software reads and writes: a read answers `old`, and a write of `w` makes the registers
`put w`. -/
structure WordReg (s : State) (off : Nat) (r : Reg) (old : Word32) (put : Word32 → OpRegs) : Prop where
  aligned : off % 4 = 0
  stands : regAt s .op off = some (r, 4)
  allowed : ∀ u, refusedUse u r = none
  read : Answers s r (old.setWidth 64)
  write : ∀ v tr, ({ s with trace := tr } : State).writeReg v r =
    .ok { s with op := put (v.setWidth 32), trace := tr }

theorem WordReg.accessible {s : State} {off : Nat} {r : Reg} {old : Word32} {put : Word32 → OpRegs}
    (h : WordReg s off r old put) (u : Use) : Accessible s u .op off 4 r :=
  ⟨by decide, h.aligned, h.stands, h.allowed u⟩

/-- The accessor operations on such a register (R142 to R144). -/
theorem wordReg_operations {s : State} {off : Nat} {r : Reg} {old : Word32} {put : Word32 → OpRegs} (hs : Unmarked s)
    (h : WordReg s off r old put) (shift width : Nat) (v : Word64) :
    (shift + width ≤ 32 →
      (∃ t, exec (.readBits (.mmio .op off 4) shift width) s = .next t ∧
        Answered s t (.word (BitVec.ofNat 64 (old.toNat / 2 ^ shift % 2 ^ width)))) ∧
      ∃ t w, exec (.writeBits (.mmio .op off 4) shift width v) s = .next t ∧
        t = { s.finish .unit with op := put w, trace := t.trace } ∧
        ∀ i, i < 32 →
          w.getLsbD i = if shift ≤ i ∧ i < shift + width then v.getLsbD (i - shift) else old.getLsbD i) ∧
    ∃ t, exec (.write (.mmio .op off 4) v) s = .next t ∧
      t = { s.finish .unit with op := put (v.setWidth 32), trace := t.trace } := by
  refine ⟨fun hb => ⟨exec_readBits_reg hs (h.accessible _) h.read hb, ?writeBits⟩, ?write⟩
  case writeBits =>
    have hwritten := h.write (writeSpan 32 shift width (old.setWidth 64) v)
    obtain ⟨tr, hrun⟩ :=
      exec_writeBits_reg (s' := { s with op := put _ }) hs (h.accessible _) h.read hb hwritten
    exact ⟨_, _, hrun, rfl, fun _ => writeSpan_getLsbD old v⟩
  case write =>
    obtain ⟨tr, hrun⟩ :=
      exec_write_reg hs (h.accessible _) (comes_writeWord_reg (by decide) (h.write v s.trace) (.ret .unit))
    exact ⟨_, hrun, rfl⟩

theorem wordReg_usbcmd {s : State} (hl : StandardLayout s) :
    WordReg s 0x00 .usbcmd s.op.usbcmd fun w => { s.op with usbcmd := w } :=
  ⟨rfl, (regAt_op hl _).trans rfl, fun _ => rfl, fun _ => rfl, fun _ _ => rfl⟩

theorem wordReg_config {s : State} (hl : StandardLayout s) :
    WordReg s 0x38 .config s.op.config fun w => { s.op with config := w } :=
  ⟨rfl, (regAt_op hl _).trans rfl, fun _ => rfl, fun _ => rfl, fun _ _ => rfl⟩

/-- The pointer bits of a `CRCR` word (R48). -/
theorem crcrPointer_mask {s : State} (hl : StandardLayout s) (v : Word64) :
    v &&& ~~~maskOf s.cfg.layout.crcrPointer = v &&& ~~~0x3F#64 := by
  rw [hl]
  rfl

/-- While the controller is halted `CRCR` loads its pointer and cycle state (R266). -/
theorem loadCrcr_of_halted {s : State} (hl : StandardLayout s) (h : halted s.cfg.layout s.op.usbsts = true)
    (v : Word64) :
    loadCrcr v s =
      { s with
        op := { s.op with crcr := v }
        hc := { learn [v &&& ~~~0x3F#64] s.hc with cmd := { p := v &&& ~~~0x3F#64, ccs := v.getLsbD 0 } } } := by
  simp only [loadCrcr, h, crcrPointer_mask hl, if_pos]

/-- While it is not, what they become is free (R266; log 17). -/
theorem loadCrcr_of_not_halted {s : State} (hl : StandardLayout s) (h : halted s.cfg.layout s.op.usbsts = false)
    (v : Word64) :
    ∃ c, loadCrcr v s =
      { s.draw.2 with
        op := { s.op with crcr := v }
        hc := { learn [v &&& ~~~0x3F#64] s.hc with cmd := c } } := by
  refine ⟨{ p := s.draw.1 &&& ~~~0xF#64, ccs := s.draw.1.getLsbD 0 }, ?_⟩
  simp only [loadCrcr, h, crcrPointer_mask hl, Bool.false_eq_true, if_false]
  rfl

/-- Settles O21: each register's word resolves, and the write of a 64-bit register comes to the same in its two
forms. -/
theorem bitfieldOperationsOnRegisters : Obligations.BitfieldOperationsOnRegisters := by
  unfold Obligations.BitfieldOperationsOnRegisters
  refine fun shift width v s hs hl => ⟨wordReg_operations hs (wordReg_usbcmd hl) shift width v,
    wordReg_operations hs (wordReg_config hl) shift width v, ?dcbaap, fun h => ?crcrHalted, fun h => ?crcr,
    fun i hi => ?doorbell⟩
  case dcbaap =>
    obtain ⟨tr, hrun⟩ := exec_write_reg hs (accessible_op hl (off := 0x30) (by decide) rfl rfl rfl)
      (comes_writeWord_dcbaap v _ s)
    exact ⟨_, hrun, rfl⟩
  case crcrHalted =>
    obtain ⟨tr, hrun⟩ := exec_write_reg hs (accessible_op hl (off := 0x18) (by decide) rfl rfl rfl)
      (comes_writeWord_crcr v _ s)
    rw [loadCrcr_of_halted hl h] at hrun
    exact ⟨_, hrun, rfl⟩
  case crcr =>
    obtain ⟨tr, hrun⟩ := exec_write_reg hs (accessible_op hl (off := 0x18) (by decide) rfl rfl rfl)
      (comes_writeWord_crcr v _ s)
    obtain ⟨c, hc⟩ := loadCrcr_of_not_halted hl h v
    rw [hc] at hrun
    exact ⟨_, c, hrun, rfl⟩
  case doorbell =>
    obtain ⟨tr, hrun⟩ := exec_write_reg hs ⟨by decide, Nat.mul_mod_right 4 i, regAt_db hl hi, rfl⟩
      (comes_writeWord_reg (v := v) (by decide) rfl (.ret .unit))
    exact ⟨_, hrun, rfl⟩

end Sys2Proof.Machine
end

section
/-! SUPPORT. No access or update of an operation depends on the turns to come or on the record of the operation in
progress, nor changes them (`Prog.Blind`). -/

namespace Sys2Proof.Machine

open Sys2Proof

/-! ### What an operation does not see -/

/-- The state with other turns to come and another record of the running agent's operation in progress. -/
def State.atTurn (ts : List Turn) (c : Option Pending) (s : State) : State :=
  { s.setCtx { s.ctx with current := c } with turns := ts }

/-- What an access answers, and `f` of the state it leads to. -/
def Act.map (f : State → State) : Act → Act
  | .done s v => .done (f s) v
  | .hold on => .hold on
  | .refuse why => .refuse why
  | .fatal c => .fatal c

/-- No access of `p`, whatever the answers before it, sees or changes the turns to come or the operation in progress. -/
def Prog.Blind : Prog → Prop
  | .ret _ => True
  | .fatal _ => True
  | .refuse _ => True
  | .act m k => (∀ ts c s, m (s.atTurn ts c) = (m s).map (State.atTurn ts c)) ∧ ∀ v, Prog.Blind (k v)

section

variable (ts : List Turn) (c : Option Pending) (s : State)

theorem readReg_atTurn (r : Reg) :
    (s.atTurn ts c).readReg r = (s.readReg r).map fun x => (x.1, x.2.atTurn ts c) := by cases r <;> rfl

theorem readLoc_atTurn (l : Loc) (n : Nat) :
    (s.atTurn ts c).readLoc n l = (s.readLoc n l).map fun x => (x.1, x.2.atTurn ts c) := by
  cases l with
  | dma a => rfl
  | reg r => exact readReg_atTurn ts c s r
  | regLo r | regHi r =>
    simp only [State.readLoc, readReg_atTurn]
    cases s.readReg r <;> rfl

theorem loadCrcr_atTurn (v : Word64) : loadCrcr v (s.atTurn ts c) = (loadCrcr v s).atTurn ts c := by
  have hhalted : halted (s.atTurn ts c).cfg.layout (s.atTurn ts c).op.usbsts = halted s.cfg.layout s.op.usbsts := rfl
  unfold loadCrcr
  dsimp only
  rw [hhalted]
  split <;> rfl

theorem writeReg_atTurn (v : Word64) (r : Reg) :
    (s.atTurn ts c).writeReg v r = (s.writeReg v r).map (State.atTurn ts c) := by
  cases r with
  | crcr => exact congrArg Except.ok (loadCrcr_atTurn ts c s v)
  | _ => rfl

theorem writeLoc_atTurn (l : Loc) (n : Nat) (v : Word64) :
    (s.atTurn ts c).writeLoc n v l = (s.writeLoc n v l).map (State.atTurn ts c) := by
  cases l with
  | dma a => rfl
  | reg r => exact writeReg_atTurn ts c s v r
  | regLo r => cases r <;> rfl
  | regHi r =>
    cases r with
    | crcr => exact congrArg Except.ok (loadCrcr_atTurn ts c s _)
    | _ => rfl

@[simp] theorem atTurn_layout : (s.atTurn ts c).cfg.layout = s.cfg.layout := rfl
@[simp] theorem eventRing_atTurn : (s.atTurn ts c).eventRing = s.eventRing := rfl
@[simp] theorem dcbaa_atTurn : (s.atTurn ts c).dcbaa = s.dcbaa := rfl
@[simp] theorem transferRing?_atTurn (k : Nat) : (s.atTurn ts c).transferRing? k = s.transferRing? k := rfl
@[simp] theorem pinnedBuf?_atTurn (k : Nat) : (s.atTurn ts c).pinnedBuf? k = s.pinnedBuf? k := rfl

@[simp] theorem ring?_atTurn (r : RingId) : (s.atTurn ts c).ring? r = s.ring? r := by cases r <;> rfl

@[simp] theorem cso?_atTurn (o : RingOwner) : (s.atTurn ts c).cso? o = s.cso? o := by cases o <;> rfl

@[simp] theorem lock?_atTurn (l : LockId) : (s.atTurn ts c).lock? l = s.lock? l := by cases l <;> rfl

@[simp] theorem resolve_atTurn (u : Use) (w : WordRef) : resolve (s.atTurn ts c) u w = resolve s u w := by
  cases w <;> rfl

theorem flipCso_atTurn (o : RingOwner) : (s.atTurn ts c).flipCso o = (s.flipCso o).atTurn ts c := by
  unfold State.flipCso
  rw [cso?_atTurn]
  cases s.cso? o <;> rfl

theorem flipEventCso_atTurn : (s.atTurn ts c).flipEventCso = s.flipEventCso.atTurn ts c := by
  unfold State.flipEventCso
  rw [eventRing_atTurn]
  cases s.eventRing <;> rfl

theorem freeAllocs_atTurn (bases : List Addr) :
    freeAllocs bases (s.atTurn ts c) = (freeAllocs bases s).atTurn ts c := by
  have hreach : inReach (s.atTurn ts c) = inReach s := funext (inReach_congr rfl rfl rfl)
  unfold freeAllocs
  rw [hreach]
  rfl

end

theorem placeOk_atTurn (place : RingPlace) (ts : List Turn) (c : Option Pending) (s : State) :
    placeOk place (s.atTurn ts c) = placeOk place s := by cases place <;> rfl

theorem installRing_atTurn (place : RingPlace) (p : Addr) (ts : List Turn) (c : Option Pending) (s : State) :
    installRing place p (s.atTurn ts c) = (installRing place p s).atTurn ts c := by
  cases place with
  | bare k =>
    have h := freeAllocs_atTurn ts c s (ownedBlocks (.ring (.bare k)) s)
    exact congrArg (fun u : State => { u with bareRings := putAt s.bareRings k { phys := p, index := 0 } }) h
  | event =>
    have h := freeAllocs_atTurn ts c s (ownedBlocks (.ring .event) s)
    exact congrArg (fun u : State =>
      { u with eventRing := some { ring := { phys := p, index := 0 }, cso := true, unread := 0 } }) h

theorem installCommandRing_atTurn (p : Addr) (ts : List Turn) (c : Option Pending) (s : State) :
    installCommandRing p (s.atTurn ts c) = (installCommandRing p s).atTurn ts c := by
  have h := freeAllocs_atTurn ts c s (ownedBlocks (.ring .command) s)
  exact congrArg (fun u : State => { u with cmdRing := some { ring := { phys := p, index := 0 }, cso := false } }) h

theorem installTransferRing_atTurn (k : Nat) (p : Addr) (bufs : List Addr) (ts : List Turn) (c : Option Pending)
    (s : State) : installTransferRing k p bufs (s.atTurn ts c) = (installTransferRing k p bufs s).atTurn ts c := by
  have h := freeAllocs_atTurn ts c s (ownedBlocks (.ring (.transfer k)) s)
  exact congrArg (fun u : State =>
    { u with
      transferRings :=
        putAt s.transferRings k
          { ring := { phys := p, index := 0 }, deq := 0, cso := false, buffers := bufs, lock := .free } }) h

theorem installPinned_atTurn (k : Nat) (p : Addr) (size : Nat) (ts : List Turn) (c : Option Pending) (s : State) :
    installPinned k p size (s.atTurn ts c) = (installPinned k p size s).atTurn ts c := by
  have h := freeAllocs_atTurn ts c s (ownedBlocks (.pinned k) s)
  exact congrArg (fun u : State => { u with pinned := putAt s.pinned k { phys := p, size := size } }) h

theorem installDcbaa_atTurn (p : Addr) (ts : List Turn) (c : Option Pending) (s : State) :
    installDcbaa p (s.atTurn ts c) = (installDcbaa p s).atTurn ts c := by
  have h := freeAllocs_atTurn ts c s (ownedBlocks .dcbaa s)
  exact congrArg (fun u : State => { u with dcbaa := some p }) h

/-! ### The accesses and updates -/

theorem blind_ret {r : Result} : (Prog.ret r).Blind := trivial

theorem blind_fatal {c : FatalCode} : (Prog.fatal c).Blind := trivial

theorem blind_readOnce {l : Loc} {n : Nat} {k : Word64 → Prog} (h : ∀ v, (k v).Blind) : (readOnce l n k).Blind := by
  refine ⟨fun ts c s => ?_, fun _ => h _⟩
  simp only [readLoc_atTurn]
  cases s.readLoc n l <;> rfl

theorem blind_writeOnce {l : Loc} {n : Nat} {v : Word64} {k : Prog} (h : k.Blind) : (writeOnce l n v k).Blind := by
  refine ⟨fun ts c s => ?_, fun _ => h⟩
  simp only [writeLoc_atTurn]
  cases s.writeLoc n v l <;> rfl

theorem blind_askSplit {k : Bool → Prog} (h : ∀ b, (k b).Blind) : (askSplit k).Blind :=
  ⟨fun _ _ _ => rfl, fun _ => h _⟩

theorem blind_readWord {l : Loc} {n : Nat} {k : Word64 → Prog} (h : ∀ v, (k v).Blind) : (readWord l n k).Blind := by
  unfold readWord
  split
  · refine blind_askSplit fun split => ?_
    cases split with
    | true => exact blind_readOnce fun _ => blind_readOnce fun _ => h _
    | false => exact blind_readOnce h
  · exact blind_readOnce h

theorem blind_writeWord {l : Loc} {n : Nat} {v : Word64} {k : Prog} (h : k.Blind) : (writeWord l n v k).Blind := by
  unfold writeWord
  split
  · refine blind_askSplit fun split => ?_
    cases split with
    | true => exact blind_writeOnce (blind_writeOnce h)
    | false => exact blind_writeOnce h
  · exact blind_writeOnce h

theorem blind_readBitsAt {l : Loc} {n a b : Nat} {k : Word64 → Prog} (h : ∀ v, (k v).Blind) :
    (readBitsAt l n a b k).Blind := by
  unfold readBitsAt
  split
  · exact blind_fatal
  · exact blind_readWord fun _ => h _

theorem blind_writeBitsAt {l : Loc} {n a b : Nat} {v : Word64} {k : Prog} (h : k.Blind) :
    (writeBitsAt l n a b v k).Blind := by
  unfold writeBitsAt
  split
  · exact blind_fatal
  · exact blind_readWord fun _ => blind_writeWord h

theorem blind_await {r : Reg} {n : Nat} {b : Bool} {k : Prog} (h : k.Blind) : (await r n b k).Blind := by
  refine ⟨fun ts c s => ?_, fun _ => h⟩
  simp only [readReg_atTurn]
  cases s.readReg r with
  | error e => rfl
  | ok x =>
    dsimp only [Except.map]
    split <;> rfl

theorem blind_acquire {l : LockId} {k : Prog} (h : k.Blind) : (acquire l k).Blind := by
  refine ⟨fun ts c s => ?_, fun _ => h⟩
  simp only [lock?_atTurn]
  split <;> rfl

/-- An update that neither sees nor changes the turns to come and the operation in progress. -/
theorem blind_update {f : State → State} {k : Prog} (hf : ∀ ts c s, f (s.atTurn ts c) = (f s).atTurn ts c)
    (h : k.Blind) : (update f k).Blind :=
  ⟨fun ts c s => congrArg (Act.done · .unit) (hf ts c s), fun _ => h⟩

theorem blind_release {l : LockId} {k : Prog} (h : k.Blind) : (release l k).Blind :=
  blind_update (fun _ _ _ => rfl) h

theorem blind_drawWord {k : Word64 → Prog} (h : ∀ v, (k v).Blind) : (drawWord k).Blind :=
  ⟨fun _ _ _ => rfl, fun _ => h _⟩

theorem blind_getParams {k : Params → Prog} (h : ∀ p, (k p).Blind) : (getParams k).Blind :=
  ⟨fun _ _ _ => rfl, fun _ => h _⟩

theorem blind_lockRing {r : RingId} {k : Prog} (h : k.Blind) : (lockRing r k).Blind := by
  cases r with
  | transfer j => exact blind_acquire h
  | command | event | bare j => exact h

theorem blind_unlockRing {r : RingId} {k : Prog} (h : k.Blind) : (unlockRing r k).Blind := by
  cases r with
  | transfer j => exact blind_release h
  | command | event | bare j => exact h

theorem blind_getRing {r : RingId} {k : RingBuf → Prog} (h : ∀ b, (k b).Blind) : (getRing r k).Blind := by
  refine ⟨fun ts c s => ?_, fun _ => h _⟩
  simp only [ring?_atTurn]
  cases s.ring? r <;> rfl

theorem blind_getCso {o : RingOwner} {k : Bool → Prog} (h : ∀ b, (k b).Blind) : (getCso o k).Blind := by
  refine ⟨fun ts c s => ?_, fun _ => h _⟩
  simp only [cso?_atTurn]
  cases s.cso? o <;> rfl

theorem blind_getEventCso {k : Bool → Prog} (h : ∀ b, (k b).Blind) : (getEventCso k).Blind := by
  refine ⟨fun ts c s => ?_, fun _ => h _⟩
  simp only [eventRing_atTurn]
  cases s.eventRing <;> rfl

theorem blind_getTransfer {j : Nat} {k : TransferRing → Prog} (h : ∀ t, (k t).Blind) : (getTransfer j k).Blind := by
  refine ⟨fun ts c s => ?_, fun _ => h _⟩
  simp only [transferRing?_atTurn]
  cases s.transferRing? j <;> rfl

theorem blind_getDcbaa {k : Addr → Prog} (h : ∀ b, (k b).Blind) : (getDcbaa k).Blind := by
  refine ⟨fun ts c s => ?_, fun _ => h _⟩
  simp only [dcbaa_atTurn]
  cases s.dcbaa <;> rfl

theorem blind_getRegion {a : AllocRef} {k : Addr → Nat → Prog} (h : ∀ p n, (k p n).Blind) : (getRegion a k).Blind := by
  cases a with
  | pinned j =>
    refine ⟨fun ts c s => ?_, fun _ => ⟨fun ts c s => ?_, fun _ => h _ _⟩⟩
    all_goals
      simp only [pinnedBuf?_atTurn]
      cases s.pinnedBuf? j <;> rfl
  | ring r => exact blind_lockRing (blind_getRing fun _ => blind_unlockRing (h _ _))
  | buffer j i =>
    refine blind_acquire (blind_getTransfer fun t => ?_)
    split
    · exact blind_release (h _ _)
    · exact blind_fatal
  | dcbaa => exact blind_getDcbaa (k := fun b => k b Config.dcbaaBytes) fun _ => h _ _

theorem blind_withWord {w : WordRef} {u : Use} {k : Loc → Prog} (h : ∀ l, (k l).Blind) : (withWord w u k).Blind := by
  refine ⟨fun ts c s => ?_, fun _ => h _⟩
  simp only [resolve_atTurn]
  cases resolve s u w <;> rfl

/-- A condition on the rest of the state. -/
theorem blind_require {cond : State → Bool} {why : Refusal} {k : Prog}
    (hcond : ∀ ts c s, cond (s.atTurn ts c) = cond s) (h : k.Blind) : (require cond why k).Blind := by
  refine ⟨fun ts c s => ?_, fun _ => h⟩
  simp only [hcond]
  cases cond s <;> rfl

theorem blind_needs {ok : Bool} {why : Refusal} {k : Prog} (h : k.Blind) : (needs ok why k).Blind := by
  cases ok with
  | true => exact h
  | false => exact trivial

/-- Nor does a look ahead see them. -/
theorem foresee_atTurn (ts : List Turn) (c : Option Pending) :
    ∀ (p : Prog) (s : State), p.Blind → foresee p (s.atTurn ts c) = foresee p s
  | .ret _, _, _ => rfl
  | .fatal _, _, _ => rfl
  | .refuse _, _, _ => rfl
  | .act m k, s, hp => by
    rw [foresee, foresee, hp.1]
    cases m s with
    | done s' v => exact foresee_atTurn ts c (k v) s' (hp.2 v)
    | hold on => rfl
    | refuse why => rfl
    | fatal c => rfl

theorem blind_precise {p : Prog} (h : p.Blind) : (precise p).Blind := by
  refine ⟨fun ts c s => ?_, fun _ => h⟩
  simp only [foresee_atTurn ts c p s h]
  cases foresee p s <;> rfl

theorem blind_allocate {size align : Nat} {kind : AllocKind} {k : Addr → Prog} (h : ∀ p, (k p).Blind) :
    (allocate size align kind k).Blind := by
  refine ⟨fun ts c s => ?_, fun _ => h _⟩
  have hadmissible : admissible (s.atTurn ts c) size align (s.atTurn ts c).draw.1 = admissible s size align s.draw.1 :=
    rfl
  dsimp only
  rw [hadmissible]
  split <;> rfl

/-! ### Shared operations -/

theorem blind_storeTrb {a : Addr} {t : Trb} {k : Prog} (h : k.Blind) : (storeTrb a t k).Blind :=
  blind_readBitsAt fun _ => blind_writeWord (blind_writeWord (blind_writeWord h))

theorem blind_loadTrb {a : Addr} {k : Trb → Prog} (h : ∀ t, (k t).Blind) : (loadTrb a k).Blind :=
  blind_readWord fun _ => blind_readWord fun _ => blind_readWord fun _ => h _

theorem blind_atSlot {r : RingId} {i : Nat} {k : Addr → Prog} (h : ∀ a, (k a).Blind) : (atSlot r i k).Blind := by
  refine blind_lockRing (blind_getRing fun b => ?_)
  split
  · exact blind_fatal
  · exact h _

theorem blind_ofTrb {t : TrbSrc} {f : Trb → Result} {g : Addr → (Result → Prog) → Prog}
    (h : ∀ a (k : Result → Prog), (∀ r, (k r).Blind) → (g a k).Blind) : (ofTrb t f g).Blind := by
  cases t with
  | value v => exact blind_ret
  | slot r i =>
    dsimp only [ofTrb]
    exact blind_atSlot fun a => h a _ fun _ => blind_unlockRing blind_ret

theorem blind_controlField {shift width : Nat} {f : Word64 → Result} {a : Addr} {k : Result → Prog}
    (h : ∀ r, (k r).Blind) : (controlField shift width f a k).Blind := blind_readBitsAt fun _ => h _

theorem blind_advance {r : RingId} {c : Bool} {k : Prog} (h : k.Blind) : (advance r c k).Blind := by
  refine blind_getRing fun b => blind_readBitsAt fun v => ?_
  split
  · exact blind_fatal
  · exact blind_writeBitsAt (blind_update (fun _ _ _ => rfl) h)

theorem blind_advanceNotoggle {r : RingId} {c : Bool} {k : Prog} (h : k.Blind) : (advanceNotoggle r c k).Blind := by
  refine blind_getRing fun b => blind_readBitsAt fun v => ?_
  split
  · exact blind_update (fun _ _ _ => rfl) h
  · exact blind_fatal

theorem blind_clearCycles {base : Addr} {k : Prog} (h : k.Blind) : ∀ n i, (clearCycles base n i k).Blind
  | 0, _ => h
  | n + 1, i => blind_writeBitsAt (blind_clearCycles h n (i + 1))

theorem blind_resetRing {r : RingId} {k : Prog} (h : k.Blind) : (resetRing r k).Blind :=
  blind_getRing fun _ => blind_update (fun _ _ _ => rfl) (blind_clearCycles h _ _)

theorem blind_passLink {o : RingOwner} {k : Prog} (h : k.Blind) : (passLink o k).Blind := by
  refine blind_getRing fun b => blind_readBitsAt fun v => ?_
  split
  · exact blind_getCso fun _ => blind_advance (blind_update (fun ts c s => flipCso_atTurn ts c s o) h)
  · exact h

theorem blind_allocBuffers {k : List Addr → Prog} (h : ∀ bs, (k bs).Blind) : ∀ n acc, (allocBuffers n acc k).Blind
  | 0, acc => h acc
  | n + 1, _ => blind_allocate fun _ => blind_allocBuffers h n _

theorem blind_storeBuffers {l : Layout} {base : Addr} {len : BitVec 17} {k : Prog} (h : k.Blind) :
    ∀ i bs, (storeBuffers l base len i bs k).Blind
  | _, [] => h
  | i, _ :: bs => blind_storeTrb (blind_storeBuffers h (i + 1) bs)

theorem blind_fillLoop {j : Nat} {k : Prog} (h : k.Blind) : ∀ n, (fillLoop j n k).Blind
  | 0 => h
  | n + 1 => by
    refine blind_getTransfer fun t => ?_
    split
    · exact h
    · exact blind_advance (blind_passLink (blind_fillLoop h n))

theorem blind_ringBell {reg : Nat} {w : Word32} : (ringBell reg w).Blind :=
  blind_require (fun _ _ _ => rfl) (blind_acquire (blind_writeWord (blind_release blind_ret)))

theorem blind_lengthOf {l : Layout} {f : LengthField} {w : Word64} {k : Word64 → Prog} (h : ∀ v, (k v).Blind) :
    (lengthOf l f w k).Blind := by
  cases f with
  | event => exact h _
  | transfer => exact h _
  | unstated => exact blind_drawWord h

theorem blind_transferLength {l : Layout} {t : TrbSrc} : (progTransferLength l t).Blind := by
  cases t with
  | value v => exact blind_lengthOf fun _ => blind_ret
  | slot r i =>
    dsimp only [progTransferLength]
    exact blind_atSlot fun _ => blind_readBitsAt fun _ => blind_readWord fun _ => blind_lengthOf fun _ =>
      blind_unlockRing blind_ret

theorem blind_current {c : Inspected} : (progCurrent c).Blind := by
  cases c with
  | slot r => exact blind_lockRing (blind_getRing fun _ => blind_unlockRing blind_ret)
  | dequeue k => exact blind_acquire (blind_getTransfer fun _ => blind_release blind_ret)
  | flag k => exact blind_acquire (blind_getTransfer fun _ => blind_release blind_ret)

/-- No operation sees the turns to come or the record of the operation in progress. -/
theorem progOf_blind (l : Layout) (i : Instr) : (progOf l i).Blind := by
  cases i
  all_goals
    dsimp only [progOf, recordProg, progRead, progWrite, progReadBits, progWriteBits, progNormalTrbNew, progTrbLink,
      progSetupStageTrbNew, progDataStageTrbNew, progStatusStageTrbNew, progCommandTrbNew, progCycleBitState,
      progSetCycleState, progTrbType, progSlotId, progData, progToggleCycle, progCompletionCode, progClassify,
      progStore, progLoad, progTrbRingNew, progSlot, progSlotAddr, progAdvanceIndex, progAdvanceIndexNotoggle,
      progTrbRingReset, progTrbRingPhysAddr, progSetLinkTrb, progSkipLink, progCommandRingNew,
      progCommandRingReset, progCommandRingPhysAddr, progCrcrValue, progPush, progTransferRingNew, progFillRing,
      progDequeueTrb, progEventRingReset, progHasEvent, progPop, progMaxDeviceSlots, progMaxInterrupters, progMaxPorts,
      progMaxScratchpadBuffers, progIsHalted, progResetXhc, progStartXhc, progSetDcbaaPtr, progSetCmdRingCtrl,
      progSetNumDeviceSlots, progNotify, progDbword, progCrcrword, progDcbaaent, progPinnedNew, progPinnedPhysAddr,
      progGetUncheckedMut, progDcbaaNew, progDcbaaSetEntry, progDcbaaEntry, storeLink]
  case read => exact blind_withWord fun _ => blind_readWord fun _ => blind_ret
  case write => exact blind_withWord fun _ => blind_writeWord blind_ret
  case readBits => exact blind_withWord fun _ => blind_readBitsAt fun _ => blind_ret
  case writeBits => exact blind_withWord fun _ => blind_writeBitsAt blind_ret
  case normalTrbNew | setupStageTrbNew => exact blind_needs blind_ret
  case dataStageTrbNewIn | dataStageTrbNewOut => exact blind_needs (blind_getParams fun _ => blind_ret)
  case statusStageTrbNewIn | statusStageTrbNewOut => exact blind_getParams fun _ => blind_ret
  case commandTrbNew => exact blind_needs (blind_needs blind_ret)
  case trbLink | commandRingPhysAddr | crcrValue => exact blind_getRing fun _ => blind_ret
  case cycleBitState | trbType | slotId | toggleCycle | classify =>
    exact blind_ofTrb fun _ _ h => blind_controlField h
  case completionCode => exact blind_ofTrb fun _ _ h => blind_readBitsAt fun _ => h _
  case data => exact blind_ofTrb fun _ _ h => blind_readWord fun _ => h _
  case transferLength => exact blind_transferLength
  case setCycleState => exact blind_atSlot fun _ => blind_writeBitsAt (blind_unlockRing blind_ret)
  case store => exact blind_atSlot fun _ => blind_storeTrb (blind_unlockRing blind_ret)
  case load => exact blind_atSlot fun _ => blind_loadTrb fun _ => blind_unlockRing blind_ret
  case slot | slotAddr => exact blind_atSlot fun _ => blind_unlockRing blind_ret
  case trbRingNew place =>
    exact blind_require (placeOk_atTurn place) (blind_allocate fun p =>
      blind_update (installRing_atTurn place p) blind_ret)
  case advanceIndex => exact blind_lockRing (blind_advance (blind_unlockRing blind_ret))
  case advanceIndexNotoggle => exact blind_lockRing (blind_advanceNotoggle (blind_unlockRing blind_ret))
  case trbRingReset => exact blind_resetRing blind_ret
  case current => exact blind_current
  case trbRingPhysAddr => exact blind_lockRing (blind_getRing fun _ => blind_unlockRing blind_ret)
  case setLinkTrb => exact blind_lockRing (blind_getRing fun _ => blind_storeTrb (blind_unlockRing blind_ret))
  case skipLink => exact blind_lockRing (blind_passLink (blind_unlockRing blind_ret))
  case commandRingNew =>
    exact blind_allocate fun p => blind_storeTrb (blind_update (installCommandRing_atTurn p) blind_ret)
  case commandRingReset => exact blind_resetRing (blind_update (fun _ _ _ => rfl) blind_ret)
  case push =>
    exact blind_precise (blind_getRing fun _ => blind_storeTrb (blind_getCso fun _ =>
      blind_advance (blind_passLink blind_ret)))
  case transferRingNew k =>
    refine blind_getParams fun _ => blind_needs (blind_require (fun _ _ _ => rfl) (blind_allocate fun p =>
      blind_allocBuffers (fun bufs => blind_storeBuffers (blind_storeTrb ?_) _ _) _ _))
    exact blind_update (installTransferRing_atTurn k p bufs) blind_ret
  case fillRing => exact blind_acquire (blind_precise (blind_fillLoop (blind_release blind_ret) _))
  case dequeueTrb =>
    refine blind_acquire (blind_getTransfer fun t => ?_)
    split
    · exact blind_fatal
    · exact blind_update (fun _ _ _ => rfl) (blind_precise (blind_advance (blind_passLink (blind_release blind_ret))))
  case eventRingReset => exact blind_resetRing (blind_update (fun _ _ _ => rfl) blind_ret)
  case hasEvent => exact blind_getRing fun _ => blind_getEventCso fun _ => blind_readBitsAt fun _ => blind_ret
  case pop =>
    refine blind_getRing fun _ => blind_loadTrb fun t => blind_getEventCso fun c => ?_
    split
    · exact blind_fatal
    · refine blind_advanceNotoggle (blind_getRing fun b => ?_)
      split
      · exact blind_update flipEventCso_atTurn blind_ret
      · exact blind_ret
  case maxDeviceSlots | maxInterrupters | maxPorts | isHalted => exact blind_readBitsAt fun _ => blind_ret
  case maxScratchpadBuffers => exact blind_readBitsAt fun _ => blind_readBitsAt fun _ => blind_ret
  case resetXhc => exact blind_writeBitsAt (blind_await (blind_writeBitsAt (blind_await blind_ret)))
  case startXhc => exact blind_writeBitsAt (blind_await blind_ret)
  case setDcbaaPtr | setCmdRingCtrl | crcrword => exact blind_writeWord blind_ret
  case setNumDeviceSlots => exact blind_writeBitsAt blind_ret
  case notify => exact blind_needs blind_ringBell
  case dbword => exact blind_ringBell
  case pinnedNew k size _ _ =>
    exact blind_needs (blind_require (fun _ _ _ => rfl) (blind_allocate fun p =>
      blind_update (installPinned_atTurn k p size) blind_ret))
  case pinnedPhysAddr | getUncheckedMut => exact blind_getRegion fun _ _ => blind_ret
  case dcbaaNew => exact blind_allocate fun p => blind_update (installDcbaa_atTurn p) blind_ret
  case dcbaaSetEntry | dcbaaent => exact blind_needs (blind_getDcbaa fun _ => blind_writeWord blind_ret)
  case dcbaaEntry => exact blind_needs (blind_getDcbaa fun _ => blind_readWord fun _ => blind_ret)
  all_goals exact blind_ret

end Sys2Proof.Machine
end

section
/-! SUPPORT. An operation taken one access at a time (R80, R329): it stops after each access and is taken up again, and
meets the states that it meets in one turn. -/

namespace Sys2Proof.Machine

open Sys2Proof

/-! ### Ends of an operation -/

/-- The state with other turns to come. -/
def State.withTurns (ts : List Turn) (s : State) : State := { s with turns := ts }

@[simp] theorem atTurn_ctx (ts : List Turn) (c : Option Pending) (s : State) :
    (s.atTurn ts c).ctx = { s.ctx with current := c } := State.setCtx_ctx s { s.ctx with current := c }

theorem atTurn_current (ts : List Turn) (s : State) : s.atTurn ts s.ctx.current = s.withTurns ts := by
  cases h : s.cpu <;> simp [State.atTurn, State.withTurns, State.setCtx, State.ctx, State.ctxOf, h]

/-- How an operation ends or stays in progress does not depend on the record of it. -/
@[simp] theorem finish_atTurn (ts : List Turn) (c : Option Pending) (s : State) (r : Result) :
    (s.atTurn ts c).finish r = (s.finish r).withTurns ts := by
  cases h : s.cpu <;> simp [State.atTurn, State.withTurns, State.finish, State.ctx, State.ctxOf, State.setCtx, h]

@[simp] theorem suspend_atTurn (ts : List Turn) (c : Option Pending) (s : State) (i : Instr) (as : List Val)
    (on : Option Awaited) : (s.atTurn ts c).suspend i as on = (s.suspend i as on).withTurns ts := by
  cases h : s.cpu <;> simp [State.atTurn, State.withTurns, State.suspend, State.ctx, State.ctxOf, State.setCtx, h]

@[simp] theorem raiseFatal_atTurn (ts : List Turn) (c : Option Pending) (s : State) (code : FatalCode) :
    raiseFatal code (s.atTurn ts c) = (raiseFatal code s).withTurns ts := by
  cases h : s.cpu <;> simp [State.atTurn, State.withTurns, raiseFatal, State.ctx, State.ctxOf, State.setCtx, h]

@[simp] theorem raiseRefusal_atTurn (ts : List Turn) (c : Option Pending) (s : State) (why : Refusal) :
    raiseRefusal why (s.atTurn ts c) = (raiseRefusal why s).withTurns ts := by
  cases h : s.cpu <;> simp [State.atTurn, State.withTurns, raiseRefusal, State.ctx, State.ctxOf, State.setCtx, h]

/-- So an operation comes to the same state from both. -/
theorem run_atTurn (i : Instr) (ts : List Turn) (c : Option Pending) :
    ∀ (p : Prog) (as : List Val) (s : State), p.Blind → run i p as (s.atTurn ts c) = (run i p as s).withTurns ts
  | .ret r, _, s, _ => finish_atTurn ts c s r
  | .fatal code, _, s, _ => raiseFatal_atTurn ts c s code
  | .refuse why, _, s, _ => raiseRefusal_atTurn ts c s why
  | .act m k, as, s, ⟨hm, hk⟩ => by
    rw [run, run, hm]
    cases m s with
    | done s' v => exact run_atTurn i ts c (k v) _ s' (hk v)
    | hold on => exact suspend_atTurn ts c s i as on
    | refuse why => exact raiseRefusal_atTurn ts c s why
    | fatal code => exact raiseFatal_atTurn ts c s code

/-- An operation leaves the turns to come as they are. -/
theorem run_withTurns {i : Instr} {p : Prog} (hp : p.Blind) (as : List Val) (s : State) :
    (run i p as s).withTurns s.turns = run i p as s := by
  rw [← run_atTurn i s.turns s.ctx.current p as s hp, atTurn_current]
  rfl

/-! ### What an operation leaves of the turn -/

/-- An agent alone on the CPU can go on: no mark is set, and the layout is `l`. -/
def Ready (l : Layout) (s : State) : Prop := s.cfg.layout = l ∧ Alone s ∧ Unmarked s

/-- An access changes memory, the Operational registers and the controller's hidden state, and takes free values. -/
theorem readReg_frame {s s' : State} {r : Reg} {v : Word64} (h : s.readReg r = .ok (v, s')) :
    s' = { s with op := s'.op, supply := s'.supply, drawn := s'.drawn } := by
  cases r <;> cases h <;> rfl

theorem readLoc_frame {s s' : State} {l : Loc} {n : Nat} {v : Word64} (h : s.readLoc n l = .ok (v, s')) :
    s' = { s with op := s'.op, supply := s'.supply, drawn := s'.drawn } := by
  unfold State.readLoc at h
  split at h
  · cases h; rfl
  · exact readReg_frame h
  all_goals
    split at h
    · next hr => cases h; exact readReg_frame hr
    · cases h

theorem loadCrcr_frame (v : Word64) (s : State) :
    loadCrcr v s =
      { s with
        op := (loadCrcr v s).op
        hc := (loadCrcr v s).hc
        supply := (loadCrcr v s).supply
        drawn := (loadCrcr v s).drawn } := by
  unfold loadCrcr
  split <;> rfl

theorem writeReg_frame {s s' : State} {r : Reg} {v : Word64} (h : s.writeReg v r = .ok s') :
    s' = { s with op := s'.op, hc := s'.hc, supply := s'.supply, drawn := s'.drawn } := by
  cases r with
  | crcr => cases h; exact loadCrcr_frame v s
  | _ => cases h <;> rfl

theorem writeLoc_frame {s s' : State} {l : Loc} {n : Nat} {v : Word64} (h : s.writeLoc n v l = .ok s') :
    s' = { s with mem := s'.mem, op := s'.op, hc := s'.hc, supply := s'.supply, drawn := s'.drawn } := by
  have hreg {r : Reg} {w : Word64} (h : s.writeReg w r = .ok s') :
      s' = { s with mem := s'.mem, op := s'.op, hc := s'.hc, supply := s'.supply, drawn := s'.drawn } := by
    rw [writeReg_frame h]
  unfold State.writeLoc at h
  split at h
  case h_2 | h_5 | h_8 => exact hreg h
  case h_6 => exact hreg (r := .crcr) h
  all_goals cases h; rfl

theorem stable_ready (l : Layout) : Stable (Ready l) where
  log _ _ _ _ _ h := h
  draw _ h := h
  read _ _ _ _ _ h e := by rw [readLoc_frame e]; exact h
  write _ _ _ _ _ h e := by rw [writeLoc_frame e]; exact h
  lock _ _ _ h := h
  index _ _ _ h := h
  move _ _ _ h := h
  cso _ _ _ h := h
  deq _ _ _ h := h
  eventCso _ _ h := h
  restart _ h := h
  installRing _ place _ h := by cases place <;> exact h
  installCommandRing _ _ h := h
  installTransferRing _ _ _ _ h := h
  installPinned _ _ _ _ h := h
  installDcbaa _ _ h := h
  alloc _ _ _ _ h _ _ := h

/-! ### Turns of one access -/

/-- Left alone for some turns of one access, the state that `f` makes of the turns to come comes to `t`. -/
def Reaches (f : List Turn → State) (t : State) : Prop := ∃ n, core.run n (f (List.replicate n .access)) = .next t

theorem core_run_succ {n : Nat} {s u : State} (h : step s = .next u) : core.run (n + 1) s = core.run n u := by
  have hcore : core.step s = .next u := h
  simp only [Host.Core.run, hcore]

@[simp] theorem feed_nil (p : Prog) : feed p [] = p := by cases p <;> rfl

/-- One answer more takes an operation past its next access. -/
theorem feed_next {p : Prog} {as : List Val} {m : State → Act} {k : Val → Prog} (h : feed p as = .act m k) (v : Val) :
    feed p (as ++ [v]) = k v := by
  induction as generalizing p with
  | nil =>
    rw [feed_nil] at h
    rw [h]
    exact feed_nil (k v)
  | cons a as ih =>
    cases p with
    | act m' k' => exact ih h
    | ret r | fatal c | refuse why => cases h

/-- An agent alone on the CPU, in the middle of an operation that awaits nothing, keeps its turn. -/
theorem dispatch_atTurn {s : State} (h : Alone s) {op : Pending} (hop : op.awaits = none) (ts : List Turn) :
    dispatch (s.atTurn ts (some op)) = s.atTurn ts (some op) := by
  have hactive : s.handlerActive = decide (s.cpu = .ih) := h
  cases hcpu : s.cpu with
  | sw => simp [dispatch, State.atTurn, hactive, hcpu]
  | ih => simp [dispatch, ihAwaits, State.atTurn, State.setCtx, hactive, hcpu, hop]

/-- A turn of one access takes the operation in progress up again. -/
theorem reaches_of_runOne {l : Layout} {s t : State} (hs : Ready l s) {i : Instr} {as : List Val}
    (h : ∀ c, Reaches (fun ts => runOne i as (s.atTurn ts c) (feed (progOf l i) as)) t) :
    Reaches (fun ts => s.atTurn ts (some { instr := i, answers := as, awaits := none })) t := by
  obtain ⟨hl, halone, hmarks⟩ := hs
  obtain ⟨n, hn⟩ := h (some { instr := i, answers := as, awaits := none })
  have hdispatch := dispatch_atTurn halone (op := { instr := i, answers := as, awaits := none }) rfl
    (List.replicate n .access)
  have haccess := accessAction_of_current
    (s := s.atTurn (List.replicate n .access) (some { instr := i, answers := as, awaits := none }))
    (op := { instr := i, answers := as, awaits := none }) hmarks (by rw [hdispatch, atTurn_ctx])
  have hstep := step_of_turnAction_done (turn := .access) (ts := List.replicate n .access) haccess
  rw [hdispatch, resumeOne, atTurn_layout, hl] at hstep
  exact ⟨n + 1, (core_run_succ hstep).trans hn⟩

/-- What an access leaves of an operation is taken up at the next turn. -/
theorem reaches_settle {l : Layout} {s t : State} (hs : Ready l s) {i : Instr} {as : List Val}
    (h : ∀ c, Reaches (fun ts => runOne i as (s.atTurn ts c) (feed (progOf l i) as)) t) (c : Option Pending) :
    Reaches (fun ts => settle i as (s.atTurn ts c) (feed (progOf l i) as)) t := by
  have hnext := reaches_of_runOne hs h
  cases hp : feed (progOf l i) as with
  | act m k =>
    simp only [settle, suspend_atTurn]
    exact hnext
  | ret r | fatal code | refuse why => rw [hp] at h; exact h c

/-- One access at a time, what is left of an operation comes to where it comes in one turn. -/
theorem reaches_run {l : Layout} {i : Instr} :
    ∀ (p : Prog) (as : List Val) (s : State), p.Blind → p.Keeps (Ready l) → Ready l s → feed (progOf l i) as = p →
      ∀ c, Reaches (fun ts => runOne i as (s.atTurn ts c) p) ((run i p as s).withTurns [])
  | .ret r, _, s, _, _, _, _, c => ⟨0, congrArg _ (finish_atTurn [] c s r)⟩
  | .fatal code, _, s, _, _, _, _, c => ⟨0, congrArg _ (raiseFatal_atTurn [] c s code)⟩
  | .refuse why, _, s, _, _, _, _, c => ⟨0, congrArg _ (raiseRefusal_atTurn [] c s why)⟩
  | .act m k, as, s, ⟨hblind, hblinds⟩, ⟨hkeep, hkeeps⟩, hs, hp, c => by
    cases hm : m s
    all_goals simp only [runOne, run, hblind, hm, Act.map]
    case done s' v =>
      have hs' := hkeep s s' v hs hm
      have hfeed : feed (progOf l i) (as ++ [v]) = k v := feed_next hp v
      have hrest := reaches_run (k v) (as ++ [v]) s' (hblinds v) (hkeeps v) hs' hfeed
      rw [← hfeed] at hrest ⊢
      exact reaches_settle hs' hrest c
    case hold on => exact ⟨0, congrArg _ (suspend_atTurn [] c s i as on)⟩
    case refuse why => exact ⟨0, congrArg _ (raiseRefusal_atTurn [] c s why)⟩
    case fatal code => exact ⟨0, congrArg _ (raiseFatal_atTurn [] c s code)⟩

/-! ### The statement -/

/-- What a CPU agent begins is an operation, a record that software holds as a value among them (R5, log 9). -/
theorem exec_takeOp (i : Instr) (rest : List Instr) (s : State) :
    exec i (takeOp rest s) = runOp i (progOf s.cfg.layout i) (takeOp rest s) := by
  cases i <;> rfl

/-- The agent that has the turn is alone on the CPU, unless it is SW while a handler awaits a status bit. -/
theorem alone_dispatch {s : State} (h : s.handlerActive = true → ihAwaits s = false) : Alone (dispatch s) := by
  cases hactive : s.handlerActive with
  | false => simp [Alone, dispatch, hactive]
  | true => simp [Alone, dispatch, hactive, h hactive]

theorem accessAction_of_program {s : State} {i : Instr} {rest : List Instr} (hs : Unmarked s)
    (hcurrent : (dispatch s).ctx.current = none) (hprogram : (dispatch s).ctx.program = i :: rest) :
    accessAction s = .done (.next (runOne i [] (takeOp rest (dispatch s)) (progOf s.cfg.layout i))) := by
  rw [accessAction, cpuTurn_of_unmarked hs.1 hs.2]
  simp only [hcurrent, hprogram, dispatch_cfg]

theorem cpuAction_of_program {s : State} {i : Instr} {rest : List Instr} (hs : Unmarked s)
    (hcurrent : (dispatch s).ctx.current = none) (hprogram : (dispatch s).ctx.program = i :: rest) :
    cpuAction s = .exec i (takeOp rest (dispatch s)) := by
  rw [cpuAction, cpuTurn_of_unmarked hs.1 hs.2]
  simp only [hcurrent, hprogram]

/-- A turn of one access begins the next operation. -/
theorem step_access_of_program {s : State} {i : Instr} {rest : List Instr} (hs : Unmarked s)
    (hcurrent : (dispatch s).ctx.current = none) (hprogram : (dispatch s).ctx.program = i :: rest) (ts : List Turn) :
    step { s with turns := .access :: ts } =
      .next (runOne i [] ((takeOp rest (dispatch s)).withTurns ts) (progOf s.cfg.layout i)) := by
  have hdispatch : dispatch (s.withTurns ts) = (dispatch s).withTurns ts := dispatch_withTurns s ts
  have haccess := accessAction_of_program (s := s.withTurns ts) hs
    (by rw [hdispatch]; exact hcurrent) (by rw [hdispatch]; exact hprogram)
  rw [hdispatch] at haccess
  exact step_of_turnAction_done haccess

/-- A whole turn runs it to where it comes (R329). -/
theorem step_of_program {s : State} {i : Instr} {rest : List Instr} (hs : Unmarked s) (hturns : s.turns = [])
    (hcurrent : (dispatch s).ctx.current = none) (hprogram : (dispatch s).ctx.program = i :: rest) :
    step s = .next (run i (progOf s.cfg.layout i) [] (takeOp rest (dispatch s))) := by
  have hwhole : step s = exec i (takeOp rest (dispatch s)) := by
    simp only [step, nextAction, hturns, cpuAction_of_program hs hcurrent hprogram]
  rw [hwhole, exec_takeOp]
  exact runOp_unmarked (s := takeOp rest (dispatch s)) hs.1 hs.2 i _

/-- Settles O60: no access sees the turns to come or the record of the operation in progress, and the agent, alone on
the CPU, takes the operation up at each turn where it stopped. -/
theorem accessTurnsAmountToTheOperation : Obligations.AccessTurnsAmountToTheOperation := by
  unfold Obligations.AccessTurnsAmountToTheOperation
  intro i rest s t hs hturns halone hcurrent hprogram hstep
  have hready : Ready s.cfg.layout (takeOp rest (dispatch s)) := ⟨rfl, alone_dispatch halone, hs⟩
  have hblind := progOf_blind s.cfg.layout i
  obtain rfl : run i (progOf s.cfg.layout i) [] (takeOp rest (dispatch s)) = t :=
    Host.Outcome.next.inj ((step_of_program hs hturns hcurrent hprogram).symm.trans hstep)
  have hempty : (takeOp rest (dispatch s)).turns = [] := hturns
  have hkept := run_withTurns (i := i) hblind [] (takeOp rest (dispatch s))
  obtain ⟨n, hn⟩ := reaches_run (i := i) (progOf s.cfg.layout i) [] _ hblind
    (progOf_keeps (stable_ready s.cfg.layout) s.cfg.layout i) hready (feed_nil _) (takeOp rest (dispatch s)).ctx.current
  dsimp only at hn
  rw [hempty] at hkept
  rw [atTurn_current, hkept] at hn
  exact ⟨n + 1, (core_run_succ (step_access_of_program hs hcurrent hprogram _)).trans hn⟩

end Sys2Proof.Machine
end

section
/-! SUPPORT. The launch state (R341). -/

namespace Sys2Proof.Machine

open Sys2Proof

/-- Where the register blocks are placed as R90 says, the launch state has the invariant. -/
theorem inv_launch {l : Launch} (h : blocksPlaced (State.launch l) = true) : (State.launch l).Inv :=
  ⟨rfl, h, fun _ ha => absurd ha List.not_mem_nil, .nil, List.nodup_nil, fun _ he => nomatch he⟩

/-- SW has the turn, and no operation to run (R340). -/
theorem step_launch (l : Launch) : step (State.launch l) = .next (State.launch l) := rfl

/-- Settles O58: nothing has been constructed, and nothing is given to run. -/
theorem launchHoldsNothing : Obligations.LaunchHoldsNothing := by
  unfold Obligations.LaunchHoldsNothing
  intro l h
  exact ⟨rfl, rfl, rfl, rfl, rfl, rfl, rfl, rfl, fun _ => rfl, ⟨rfl, rfl⟩, rfl, rfl, rfl, inv_launch h, step_launch l⟩

end Sys2Proof.Machine
end

section
/-! SUPPORT. Which words of DMA-visible memory resolve (R71, R77, R78). -/

namespace Sys2Proof.Machine

open Sys2Proof

/-- The word of `n` bytes at `a` lies in the block. -/
def Alloc.covers (l : Alloc) (a : Addr) (n : Nat) : Prop :=
  l.base.toNat ≤ a.toNat ∧ a.toNat + n ≤ l.base.toNat + l.size

theorem apart_comm (a n b m : Nat) : apart a n b m = apart b m a n := Bool.or_comm _ _

section

variable {s : State} {u : Use} {a : Addr} {n : Nat}

theorem resolve_dma_of_badWidth (hn : ¬AccessWidth n) : resolve s u (.dma a n) = .error .wrongWidth := by
  rw [resolve, if_pos hn]

theorem resolve_dma_of_misaligned (hn : AccessWidth n) (ha : a.toNat % n ≠ 0) :
    resolve s u (.dma a n) = .error .misaligned := by
  rw [resolve, if_neg (not_not.2 hn), if_pos ha]

theorem resolve_dma_of_outside (hn : AccessWidth n) (ha : a.toNat % n = 0) (hout : ∀ l ∈ s.allocs, ¬l.covers a n) :
    resolve s u (.dma a n) = .error .outsideAllocation := by
  have hnone : s.allocs.find? (fun l =>
      decide (l.base.toNat ≤ a.toNat) && decide (a.toNat + n ≤ l.base.toNat + l.size)) = none := by
    simpa [Alloc.covers] using hout
  simp only [resolve, if_neg (not_not.2 hn), if_neg (not_not.2 ha), hnone]

/-- Two live blocks that a word lies in are one (R290). -/
theorem eq_of_covers (h : s.Inv) (hn : 0 < n) {l l' : Alloc} (hl : l ∈ s.allocs) (hl' : l' ∈ s.allocs)
    (hc : l.covers a n) (hc' : l'.covers a n) : l = l' := by
  obtain ⟨-, -, -, hapart, -, -⟩ := h
  obtain ⟨hlo, hhi⟩ := hc
  obtain ⟨hlo', hhi'⟩ := hc'
  have hsymm : Std.Symm fun x y : Alloc => apart x.base.toNat x.size y.base.toNat y.size = true :=
    ⟨fun _ _ hxy => (apart_comm _ _ _ _).trans hxy⟩
  by_contra hne
  have hdisjoint := hapart.forall hl hl' hne
  simp only [apart, Bool.or_eq_true, decide_eq_true_eq] at hdisjoint
  omega

/-- Inside a live block the word's storage width is looked up in that block (R78). -/
theorem find?_of_covers (h : s.Inv) (hn : 0 < n) {l : Alloc} (hl : l ∈ s.allocs) (hc : l.covers a n) :
    s.allocs.find? (fun l =>
      decide (l.base.toNat ≤ a.toNat) && decide (a.toNat + n ≤ l.base.toNat + l.size)) = some l := by
  cases hf : s.allocs.find? (fun l =>
      decide (l.base.toNat ≤ a.toNat) && decide (a.toNat + n ≤ l.base.toNat + l.size)) with
  | none => exact absurd (by simpa [Alloc.covers] using hc) (List.find?_eq_none.1 hf l hl)
  | some l' =>
    have hc' : l'.covers a n := by simpa [Alloc.covers] using List.find?_some hf
    exact congrArg some (eq_of_covers h hn (List.mem_of_find?_eq_some hf) hl hc' hc)

/-- The bytes of a data buffer or a bare one are words of every width (log 31). -/
theorem resolve_dma_of_anyWidth (h : s.Inv) (hn : AccessWidth n) (ha : a.toNat % n = 0) {l : Alloc}
    (hl : l ∈ s.allocs) (hc : l.covers a n) (hw : storageWidth l.kind (a.toNat - l.base.toNat) = none) :
    resolve s u (.dma a n) = .ok (.dma a) := by
  simp only [resolve, if_neg (not_not.2 hn), if_neg (not_not.2 ha), find?_of_covers h (by omega) hl hc, hw]

/-- The words of a ring and of the DCBAA have one width each (R78). -/
theorem resolve_dma_of_width (h : s.Inv) (hn : AccessWidth n) (ha : a.toNat % n = 0) {l : Alloc}
    (hl : l ∈ s.allocs) (hc : l.covers a n) {w : Nat} (hw : storageWidth l.kind (a.toNat - l.base.toNat) = some w) :
    resolve s u (.dma a n) = if n = w then .ok (.dma a) else .error .wrongWidth := by
  simp only [resolve, if_neg (not_not.2 hn), if_neg (not_not.2 ha), find?_of_covers h (by omega) hl hc, hw]

end

/-- Settles O16: the one live block that a word lies in fixes its width, and no other word resolves. -/
theorem memoryWordsResolve : Obligations.MemoryWordsResolve := by
  unfold Obligations.MemoryWordsResolve
  refine fun a n s hinv => ⟨fun u l hl hlo hhi hn ha => ?resolves, fun hs shift span v =>
    ⟨fun hn ha hout => ?outside, fun l hl hlo hhi hn ha w hw hne => ?otherWidth, fun hn ha => ?misaligned,
      fun hn => ?badWidth⟩⟩
  case resolves =>
    cases hw : storageWidth l.kind (a.toNat - l.base.toNat) with
    | none => exact resolve_dma_of_anyWidth hinv hn ha hl ⟨hlo, hhi⟩ hw
    | some w => exact resolve_dma_of_width hinv hn ha hl ⟨hlo, hhi⟩ hw
  case outside => exact accessors_refused hs (fun _ => resolve_dma_of_outside hn ha hout) shift span v
  case otherWidth =>
    exact accessors_refused hs (fun _ => (resolve_dma_of_width hinv hn ha hl ⟨hlo, hhi⟩ hw).trans (if_neg hne))
      shift span v
  case misaligned => exact accessors_refused hs (fun _ => resolve_dma_of_misaligned hn ha) shift span v
  case badWidth => exact accessors_refused hs (fun _ => resolve_dma_of_badWidth hn) shift span v

end Sys2Proof.Machine
end

section
/-! SUPPORT. Operations on a slot run under the lock of their ring (R191, R229), and the accesses that `store` and `load`
make there, in their order (R80, R81, R176, R177). -/

namespace Sys2Proof.Machine

open Sys2Proof

/-! ### Under the lock of a ring (R85, R229) -/

/-- The state with the lock of ring `r` free; a ring other than a Transfer Ring has none. -/
def released (r : RingId) (s : State) : State :=
  match r with
  | .transfer k => s.setLock (.ring k) .free
  | .command | .event | .bare _ => s

@[simp] theorem held_trace (r : RingId) (s : State) : (held r s).trace = s.trace := by cases r <;> rfl
@[simp] theorem held_cfg (r : RingId) (s : State) : (held r s).cfg = s.cfg := by cases r <;> rfl
@[simp] theorem held_agent (r : RingId) (s : State) : (held r s).agent = s.agent := by cases r <;> rfl
@[simp] theorem released_trace (r : RingId) (s : State) : (released r s).trace = s.trace := by cases r <;> rfl

/-- Taking its lock moves no ring. -/
theorem ring?_held {r : RingId} {b : RingBuf} {s : State} (h : s.ring? r = some b) : (held r s).ring? r = some b := by
  cases r with
  | transfer k =>
    obtain ⟨t, ht, rfl⟩ := Option.map_eq_some_iff.1 h
    exact congrArg (Option.map TransferRing.ring) (transferRing?_setLock ht (.held s.agent))
  | command | event | bare k => exact h

theorem comes_lockRing {r : RingId} {s : State} (h : LockFree s r) (k : Prog) : Comes (lockRing r k) s k (held r s) := by
  cases r with
  | transfer j => exact comes_acquire h k
  | command | event | bare j => exact Comes.refl k s

theorem comes_unlockRing (r : RingId) (k : Prog) (s : State) : Comes (unlockRing r k) s k (released r s) := by
  cases r with
  | transfer j => exact comes_release (.ring j) k s
  | command | event | bare j => exact Comes.refl k s

/-- An index inside the ring has a slot (R191). -/
theorem comes_atSlot {r : RingId} {b : RingBuf} {s : State} (hfree : LockFree s r) (hr : s.ring? r = some b) {i : Nat}
    (hi : i < 16) (k : Addr → Prog) : Comes (atSlot r i k) s (k (slotAt b.phys i)) (held r s) := by
  have hring := comes_getRing (ring?_held hr) fun b =>
    if Config.ringLen ≤ i then Prog.fatal .ringIndex else k (slotAt b.phys i)
  rw [if_neg (Nat.not_le.2 (show i < Config.ringLen from hi))] at hring
  exact (comes_lockRing hfree _).trans hring

/-! ### Accesses in their order (R80) -/

/-- An access but for the value it carries. -/
def Access.seen (a : Access) : CpuAgent × AccessKind × Loc × Nat := (a.agent, a.kind, a.loc, a.bytes)

section

variable {s : State} {n : Nat}

/-- A word read in one access (R79). -/
theorem comes_readWord_once (h : n = 8 → s.cfg.split64 = false) (a : Addr) (k : Word64 → Prog) :
    Comes (readWord (.dma a) n k) s (k (s.mem.readWord a n)) (s.log .read (.dma a) n (s.mem.readWord a n)) :=
  (comes_readWord_whole h (.dma a) k).trans (comes_readOnce_dma a n k s)

theorem comes_readBitsAt_once (h : n = 8 → s.cfg.split64 = false) {shift width : Nat} (hb : shift + width ≤ 8 * n)
    (a : Addr) (k : Word64 → Prog) :
    Comes (readBitsAt (.dma a) n shift width k) s (k (readSpan shift width (s.mem.readWord a n)))
      (s.log .read (.dma a) n (s.mem.readWord a n)) := by
  rw [readBitsAt, if_neg (Nat.not_lt.2 hb)]
  exact comes_readWord_once h a _

/-- A word written in one access. -/
theorem comes_writeWord_once (h : n = 8 → s.cfg.split64 = false) (a : Addr) (v : Word64) (k : Prog) :
    Comes (writeWord (.dma a) n v k) s k
      (({ s with mem := s.mem.writeWord a n v } : State).log .write (.dma a) n (v &&& maskOf (8 * n))) :=
  (comes_writeWord_whole h (.dma a) v k).trans (comes_writeOnce_dma a n v k s)

/-- `store`: `control` is read, and written last (R81, R176). -/
theorem comes_storeTrb_inOrder (h : s.cfg.split64 = false) (a : Addr) (t : Trb) (k : Prog) :
    ∃ u, Comes (storeTrb a t k) s k u ∧
      u.trace.map Access.seen =
        (s.agent, .write, .dma (a + 12), 4) :: (s.agent, .write, .dma (a + 8), 4) :: (s.agent, .write, .dma a, 8) ::
          (s.agent, .read, .dma (a + 12), 4) :: s.trace.map Access.seen := by
  have hcontrol := comes_readBitsAt_once (s := s) (n := 4) (shift := 0) (width := 1) (fun _ => h) (by decide) (a + 12)
    fun c => writeWord (.dma a) 8 t.param
      (writeWord (.dma (a + 8)) 4 (t.status.setWidth 64)
        (writeWord (.dma (a + 12)) 4 ((withCycle t.control (c.getLsbD 0)).setWidth 64) k))
  have hparam := hcontrol.trans (comes_writeWord_once (fun _ => by exact h) a t.param _)
  have hstatus := hparam.trans (comes_writeWord_once (fun _ => by exact h) (a + 8) (t.status.setWidth 64) _)
  exact ⟨_, hstatus.trans (comes_writeWord_once (fun _ => by exact h) (a + 12) _ k), rfl⟩

/-- `load`: `control` is read first (R82, R177). -/
theorem comes_loadTrb_inOrder (h : s.cfg.split64 = false) (a : Addr) (k : Trb → Prog) :
    ∃ u, Comes (loadTrb a k) s (k (s.mem.readTrb a)) u ∧
      u.trace.map Access.seen =
        (s.agent, .read, .dma (a + 8), 4) :: (s.agent, .read, .dma a, 8) :: (s.agent, .read, .dma (a + 12), 4) ::
          s.trace.map Access.seen := by
  have hcontrol := comes_readWord_once (s := s) (n := 4) (fun _ => h) (a + 12)
    fun control => readWord (.dma a) 8 fun param => readWord (.dma (a + 8)) 4 fun status =>
      k { param := param, status := status.setWidth 32, control := control.setWidth 32 }
  have hparam := hcontrol.trans (comes_readWord_once (fun _ => by exact h) a _)
  exact ⟨_, hparam.trans (comes_readWord_once (fun _ => by exact h) (a + 8) _), rfl⟩

end

/-- Settles O15: the two operations run under the ring's lock, which is no access. -/
theorem storeAndLoadOrder : Obligations.StoreAndLoadOrder := by
  unfold Obligations.StoreAndLoadOrder
  intro r b i x s hs hr hi hfree hsplit
  have hsplit' : (held r s).cfg.split64 = false := by rw [held_cfg, hsplit]
  refine ⟨?store, ?load⟩
  case store =>
    obtain ⟨u, hstore, htrace⟩ := comes_storeTrb_inOrder hsplit' (slotAt b.phys i) x (unlockRing r (.ret .unit))
    have hslot := comes_atSlot hfree hr hi fun a => storeTrb a x (unlockRing r (.ret .unit))
    have hrun := (hslot.trans hstore).trans (comes_unlockRing r (.ret .unit) u)
    rw [held_agent, held_trace] at htrace
    refine ⟨_, runOp_ret hs.1 hs.2 hrun (.store r i x), ?_⟩
    rw [State.finish_trace, released_trace]
    exact htrace
  case load =>
    obtain ⟨u, hload, htrace⟩ := comes_loadTrb_inOrder hsplit' (slotAt b.phys i) fun t => unlockRing r (.ret (.trb t))
    have hslot := comes_atSlot hfree hr hi fun a => loadTrb a fun t => unlockRing r (.ret (.trb t))
    have hrun := (hslot.trans hload).trans (comes_unlockRing r _ u)
    rw [held_agent, held_trace] at htrace
    refine ⟨_, runOp_ret hs.1 hs.2 hrun (.load r i), ?_⟩
    rw [State.finish_trace, released_trace]
    exact htrace

end Sys2Proof.Machine
end

section
/-! SUPPORT. The consumer side of the Event Ring (R246 to R248), and the clearing of the cycle bits of a ring (R194). -/

namespace Sys2Proof.Machine

open Sys2Proof

/-! ### Clearing cycle bits (R194) -/

/-- The memory after the cycle bits of `n` slots from slot `i` on are cleared. -/
def clearedFrom (base : Addr) : Nat → Nat → Memory → Memory
  | 0, _, m => m
  | n + 1, i, m => clearedFrom base n (i + 1) (putCycle m base i false)

theorem clearedFrom_wf (base : Addr) : ∀ n i {m : Memory}, m.wf = true → (clearedFrom base n i m).wf = true
  | 0, _, _, h => h
  | n + 1, i, _, h => clearedFrom_wf base n (i + 1) (putCycle_wf h base i false)

theorem comes_clearCycles (base : Addr) (k : Prog) : ∀ n i s,
    ∃ tr, Comes (clearCycles base n i k) s k { s with mem := clearedFrom base n i s.mem, trace := tr }
  | 0, _, s => ⟨s.trace, Comes.refl k s⟩
  | n + 1, i, s => by
    obtain ⟨tr, hclear⟩ := comes_writeCycle base i false (clearCycles base n (i + 1) k) s
    obtain ⟨tr', hrest⟩ :=
      comes_clearCycles base k n (i + 1) { s with mem := putCycle s.mem base i false, trace := tr }
    exact ⟨tr', hclear.trans hrest⟩

section

variable {base : Addr} (hp : base.toNat + 256 ≤ 2 ^ 64)

include hp

/-- The cleared slots keep everything but their cycle bit, and the others keep that too. -/
theorem slotTrb_clearedFrom {j : Nat} (hj : j < 16) : ∀ (n i : Nat) {m : Memory}, m.wf = true → i + n ≤ 16 →
    slotTrb (clearedFrom base n i m) base j =
      if i ≤ j ∧ j < i + n then { slotTrb m base j with control := withCycle (slotTrb m base j).control false }
      else slotTrb m base j
  | 0, i, m, _, _ => (if_neg (by omega)).symm
  | n + 1, i, m, hm, hn => by
    rw [clearedFrom, slotTrb_clearedFrom hj n (i + 1) (putCycle_wf hm base i false) (by omega),
      slotTrb_putCycle hm hp (by omega) hj]
    by_cases hji : j = i
    · subst hji
      rw [if_neg (by omega), if_pos rfl, if_pos (by omega)]
    · rw [if_neg hji]
      exact if_congr (by omega) rfl rfl

/-- Outside the ring every byte reads as before. -/
theorem read_clearedFrom_outside {x : Nat} (hx : x < base.toNat ∨ base.toNat + 256 ≤ x) :
    ∀ (n i : Nat) {m : Memory}, m.wf = true → i + n ≤ 16 → (clearedFrom base n i m).read x = m.read x
  | 0, _, _, _, _ => rfl
  | n + 1, i, m, hm, hn => by
    rw [clearedFrom, read_clearedFrom_outside hx n (i + 1) (putCycle_wf hm base i false) (by omega)]
    exact read_putCycle_outside hm hp (by omega) false (by omega)

end

/-- `reset()` of a ring that stands (R194). -/
theorem comes_resetRing {s : State} {r : RingId} {b : RingBuf} (hr : s.ring? r = some b) (k : Prog) :
    ∃ tr, Comes (resetRing r k) s k
      { s.setIndex r 0 with mem := clearedFrom b.phys 16 0 s.mem, trace := tr } := by
  have hring := comes_getRing hr fun b => update (fun s => s.setIndex r 0) (clearCycles b.phys Config.ringLen 0 k)
  have hindex := hring.trans (comes_update (fun s => s.setIndex r 0) (clearCycles b.phys Config.ringLen 0 k) s)
  obtain ⟨tr, hclear⟩ := comes_clearCycles b.phys k 16 0 (s.setIndex r 0)
  exact ⟨tr, hindex.trans hclear⟩

/-! ### The Event Ring's own fields -/

/-- How `pop()` of the record `t` ends: the flag flips when the cursor has wrapped (R248). -/
def popWrap (t : Trb) : Prog :=
  getRing .event fun b => if b.index = 0 then update State.flipEventCso (.ret (.trb t)) else .ret (.trb t)

/-- What `pop()` goes on with, once it has loaded `t` and read the flag `c` (R248). -/
def popRest (t : Trb) (c : Bool) : Prog :=
  if trbCycle t ≠ c then .fatal .cycleMismatch else advanceNotoggle .event c (popWrap t)

theorem popRest_of_ours {t : Trb} {c : Bool} (h : trbCycle t = c) :
    popRest t c = advanceNotoggle .event c (popWrap t) := if_neg (not_not.2 h)

theorem popRest_of_other {t : Trb} {c : Bool} (h : trbCycle t ≠ c) : popRest t c = .fatal .cycleMismatch := if_pos h

theorem progPop_eq :
    progPop = getRing .event fun b => loadTrb (slotAt b.phys b.index.val) fun t => getEventCso (popRest t) := rfl

/-- The ring after an event has been consumed, its flag not yet flipped. -/
def EventRing.popped (e : EventRing) : EventRing :=
  { e with ring := { e.ring with index := e.ring.index + 1 }, unread := e.unread - 1 }

/-- The cursor comes to 0 behind slot 15 alone. -/
theorem cursor_wraps_iff (i : Fin 16) : i + 1 = 0 ↔ i.val = 15 := by
  revert i
  decide

section

variable {s : State} {e : EventRing} (he : s.eventRing = some e)

include he

theorem ring?_event : s.ring? .event = some e.ring := congrArg (Option.map EventRing.ring) he

/-- What `ER.reset()` does to the cursor, the flag and the events not yet consumed (R246). -/
theorem restartEvents_setIndex (m : Memory) (tr : List Access) :
    State.restartEvents { s.setIndex .event 0 with mem := m, trace := tr } =
      { s with
        mem := m
        eventRing := some { ring := { e.ring with index := 0 }, cso := true, unread := 0 }
        trace := tr } := by
  simp [State.restartEvents, State.setIndex, he]

/-- The cursor moves past an event, which is consumed (R248, R333). -/
theorem moveIndex_event (i : Fin 16) :
    s.moveIndex .event i =
      { s with eventRing := some { e with ring := { e.ring with index := i }, unread := e.unread - 1 } } := by
  simp [State.moveIndex, State.setIndex, he]

theorem flipEventCso_event : s.flipEventCso = { s with eventRing := some { e with cso := !e.cso } } := by
  rw [State.flipEventCso_of he, State.setEventCso, he]
  rfl

/-! ### The operations -/

/-- `has_event()` (R247). -/
theorem comes_hasEvent :
    ∃ tr, Comes progHasEvent s (.ret (.flag (slotCycle s.mem e.ring.phys e.ring.index.val == e.cso)))
      { s with trace := tr } := by
  have hring := comes_getRing (ring?_event he) fun b => getEventCso fun c =>
    readBitsAt (.dma (controlAt b.phys b.index.val)) 4 0 1 fun v => .ret (.flag (v.getLsbD 0 == c))
  have hcso := hring.trans (comes_getEventCso he _)
  obtain ⟨tr, v, hv, hread⟩ := comes_readCycle e.ring.phys e.ring.index.val
    (fun v => .ret (.flag (v.getLsbD 0 == e.cso))) s
  rw [hv] at hread
  exact ⟨tr, hcso.trans hread⟩

/-- `ER.reset()` (R246). -/
theorem comes_eventRingReset :
    ∃ tr, Comes progEventRingReset s (.ret .unit)
      { s with
        mem := clearedFrom e.ring.phys 16 0 s.mem
        eventRing := some { ring := { e.ring with index := 0 }, cso := true, unread := 0 }
        trace := tr } := by
  obtain ⟨tr, hreset⟩ := comes_resetRing (ring?_event he) (update State.restartEvents (.ret .unit))
  have hrun := hreset.trans (comes_update State.restartEvents _ _)
  rw [restartEvents_setIndex he] at hrun
  exact ⟨tr, hrun⟩

theorem comes_popWrap (t : Trb) :
    Comes (popWrap t) s (.ret (.trb t))
      { s with eventRing := some { e with cso := if e.ring.index = 0 then !e.cso else e.cso } } := by
  have hring := comes_getRing (ring?_event he) fun b =>
    if b.index = 0 then update State.flipEventCso (.ret (.trb t)) else .ret (.trb t)
  split
  · next h0 =>
    rw [if_pos h0] at hring
    have hflip := comes_update State.flipEventCso (.ret (.trb t)) s
    rw [flipEventCso_event he] at hflip
    exact hring.trans hflip
  · next h0 =>
    rw [if_neg h0] at hring
    rw [← he]
    exact hring

/-- `pop()` loads the record at the cursor and reads the flag (R248). -/
theorem comes_popRest (hp : e.ring.Placed) :
    ∃ tr, Comes progPop s (popRest (slotTrb s.mem e.ring.phys e.ring.index.val) e.cso) { s with trace := tr } := by
  have hslot := slotAt_toNat hp e.ring.index.isLt
  have hlt := e.ring.index.isLt
  have hplaced : e.ring.phys.toNat + 256 ≤ 2 ^ 64 := hp
  rw [progPop_eq]
  have hring := comes_getRing (ring?_event he) fun b =>
    loadTrb (slotAt b.phys b.index.val) fun t => getEventCso (popRest t)
  obtain ⟨tr, hload⟩ := comes_loadTrb (a := slotAt e.ring.phys e.ring.index.val) (by omega)
    (fun t => getEventCso (popRest t)) s
  exact ⟨tr, (hring.trans hload).trans (comes_getEventCso (s := { s with trace := tr }) he _)⟩

/-- On a slot that is not ours `pop()` is fatal, and has only read (R303; log 44). -/
theorem comes_pop_fatal (hp : e.ring.Placed) (hc : slotCycle s.mem e.ring.phys e.ring.index.val ≠ e.cso) :
    ∃ tr, Comes progPop s (.fatal .cycleMismatch) { s with trace := tr } := by
  obtain ⟨tr, hload⟩ := comes_popRest he hp
  rw [popRest_of_other hc] at hload
  exact ⟨tr, hload⟩

/-- On a slot that is ours `pop()` answers its record and moves on (R248). -/
theorem comes_pop (hp : e.ring.Placed) (hc : slotCycle s.mem e.ring.phys e.ring.index.val = e.cso) :
    ∃ tr, Comes progPop s (.ret (.trb (slotTrb s.mem e.ring.phys e.ring.index.val)))
      { s with
        eventRing :=
          some
            { ring := { e.ring with index := e.ring.index + 1 }
              cso := if e.ring.index.val = 15 then !e.cso else e.cso
              unread := e.unread - 1 }
        trace := tr } := by
  obtain ⟨tr, hload⟩ := comes_popRest he hp
  rw [popRest_of_ours hc] at hload
  have he' : ({ s with trace := tr } : State).eventRing = some e := he
  obtain ⟨tr', hadvance⟩ := comes_advanceNotoggle (ring?_event he') hc
    (popWrap (slotTrb s.mem e.ring.phys e.ring.index.val))
  rw [moveIndex_event he'] at hadvance
  have hwrap := comes_popWrap (s := { s with eventRing := some e.popped, trace := tr' }) rfl
    (slotTrb s.mem e.ring.phys e.ring.index.val)
  simp only [EventRing.popped, cursor_wraps_iff] at hwrap
  exact ⟨tr', (hload.trans hadvance).trans hwrap⟩

end

/-- Settles O37: each operation begins with the ring as it stands. -/
theorem eventRingResetHasEventAndPop : Obligations.EventRingResetHasEventAndPop := by
  unfold Obligations.EventRingResetHasEventAndPop
  intro e s hs he
  refine ⟨?hasEvent, fun hp hm => ?reset, fun hp hc => ?pop, fun hp hc => ?mismatch⟩
  case hasEvent =>
    obtain ⟨tr, hrun⟩ := comes_hasEvent he
    exact ⟨_, runOp_ret hs.1 hs.2 hrun .hasEvent, rfl⟩
  case reset =>
    obtain ⟨tr, hrun⟩ := comes_eventRingReset he
    have houtside := fun x hx => read_clearedFrom_outside hp (x := x) hx 16 0 hm (by decide)
    have hslots := fun j (hj : j < 16) => (slotTrb_clearedFrom hp hj 16 0 hm (by decide)).trans (if_pos (by omega))
    generalize clearedFrom e.ring.phys 16 0 s.mem = m at hrun houtside hslots
    exact ⟨_, runOp_ret hs.1 hs.2 hrun .eventRingReset, houtside, hslots, rfl⟩
  case pop =>
    obtain ⟨tr, hrun⟩ := comes_pop he hp hc
    exact ⟨_, e.ring.index + 1, runOp_ret hs.1 hs.2 hrun .pop, Fin.val_add _ _, rfl⟩
  case mismatch =>
    obtain ⟨tr, hrun⟩ := comes_pop_fatal he hp hc
    exact ⟨_, runOp_fatal hs.1 hs.2 hrun .pop, rfl⟩

end Sys2Proof.Machine
end

section
/-! SUPPORT. The controller's steps that fetch and execute records (R82, R295, R330, R331, R337; log 46): each is `exec`
of the record, or changes nothing. -/

namespace Sys2Proof.Machine

open Sys2Proof

/-! ### Sixteen bytes are a record (R103, R122) -/

theorem decode_sixteen (l : Layout) {bs : List Byte} (h : bs.length = 16) :
    decode l .trb bs = .ok (decodeTrb l (trbOfBytes bs)) := if_pos h

@[simp] theorem fetchBytes_length (s : State) (a : Addr) : (fetchBytes s a).length = 16 := by simp [fetchBytes]

@[simp] theorem trbBytes_length (t : Trb) : (trbBytes t).length = 16 := by simp [trbBytes]

/-- The bytes of a record are read as that record (R126). -/
theorem trbOfBytes_trbBytes (t : Trb) : trbOfBytes (trbBytes t) = t := by
  have hword (w : Word32) : (wordOf (bytesOf 4 (w.setWidth 64))).setWidth 32 = w := by
    rw [wordOf_bytesOf_four, setWidth_and_mask, setWidth_setWidth_32]
  have hparam : (trbBytes t).take 8 = bytesOf 8 t.param := by simp [trbBytes]
  have hstatus : ((trbBytes t).drop 8).take 4 = bytesOf 4 (t.status.setWidth 64) := by simp [trbBytes]
  have hcontrol : (trbBytes t).drop 12 = bytesOf 4 (t.control.setWidth 64) := List.drop_left' (by simp)
  simp only [trbOfBytes, hparam, hstatus, hcontrol, hword, wordOf_bytesOf_eight]

/-! ### Fetching (R330, R337) -/

theorem lifecycle_running_iff (s : State) : s.lifecycle = .running ↔ running s.cfg.layout s.op = true := by
  simp only [State.lifecycle, lifecycle, running]
  generalize runStop s.cfg.layout s.op.usbcmd = rs
  generalize hcReset s.cfg.layout s.op.usbcmd = hcrst
  generalize halted s.cfg.layout s.op.usbsts = hch
  revert rs hcrst hch
  decide

/-- Of a freed block the controller reads 16 free bytes (log 46). -/
theorem fetchAt_stale {s : State} {a : Addr} (ha : a.toNat % 16 = 0) (hl : insideLive s a 16 = false)
    (hs : insideStale s a 16 = true) :
    fetchAt s a = some (bytesOf 8 s.draw.1 ++ bytesOf 8 s.draw.2.draw.1, s.draw.2.draw.2) := by
  simp [fetchAt, ha, hl, hs]

theorem fetchAt_none {s : State} {a : Addr}
    (h : a.toNat % 16 ≠ 0 ∨ (insideLive s a 16 = false ∧ insideStale s a 16 = false)) : fetchAt s a = none := by
  rcases h with ha | ⟨hl, hs⟩
  · simp [fetchAt, ha]
  · simp [fetchAt, hl, hs]

section

variable {s : State} {sel : RingSel} {r : HcRing}

theorem fetchRing_of_running (hrun : s.lifecycle = .running) (hheld : holdsFrom s.hc sel = false) :
    fetchRing s sel r = fetchAt s r.p := by
  simp [fetchRing, (lifecycle_running_iff s).1 hrun, hheld]

theorem fetchRing_none (h : s.lifecycle ≠ .running ∨ holdsFrom s.hc sel = true ∨ fetchAt s r.p = none) :
    fetchRing s sel r = none := by
  rw [Ne, lifecycle_running_iff] at h
  rcases h with h | h | h <;> simp [fetchRing, h]

/-- What is fetched to consume decodes, and its address and the address in it are held if it is the ring's (log 49). -/
theorem hcFetch_of_fetch {t : State} {bs : List Byte} (hf : fetchRing s sel r = some (bs, t))
    (hr : hcRing? s.hc sel = some r) :
    hcFetch s sel =
      some (decodeTrb s.cfg.layout (trbOfBytes bs), { t with hc := learnRecord r (trbOfBytes bs) t.hc }) := by
  have hlen := (fetchAt_some (fetchRing_some hf).2.2).1
  simp only [hcFetch, hr, hf, decode_sixteen _ hlen]

theorem hcFetch_none (h : ∀ r, hcRing? s.hc sel = some r → fetchRing s sel r = none) : hcFetch s sel = none := by
  unfold hcFetch
  cases hr : hcRing? s.hc sel with
  | none => rfl
  | some r => simp only [h r hr]

end

/-! ### The steps -/

section

variable {s : State} {ts : List Turn}

theorem step_consume {sel : RingSel} {i : Instr} {t : State}
    (h : hcFetch { s with turns := ts } sel = some (i, t)) :
    step { s with turns := .hc (.consume sel) :: ts } = exec i { t with serving := .hc sel } := by
  simp only [step, nextAction, turnAction, hcAction, h]

theorem step_consume_none {sel : RingSel} (h : hcFetch { s with turns := ts } sel = none) :
    step { s with turns := .hc (.consume sel) :: ts } = .next { s with turns := ts } := by
  simp only [step, nextAction, turnAction, hcAction, h]

theorem step_fetch (k : Nat) :
    step { s with turns := .hc (.fetch k) :: ts } = .next (hcHold k { s with turns := ts }) := rfl

theorem step_complete {j : Nat} {h : HeldTrb} (hj : s.hc.held[j]? = some h) (hrun : s.lifecycle = .running) :
    step { s with turns := .hc (.complete j) :: ts } =
      exec (decodeTrb s.cfg.layout h.trb)
        { s with turns := ts, hc := { s.hc with held := s.hc.held.eraseIdx j }, serving := .held h } := by
  simp only [step, nextAction, turnAction, hcAction, hj, (lifecycle_running_iff s).1 hrun, if_true]

theorem step_complete_none {j : Nat} (h : s.hc.held[j]? = none ∨ s.lifecycle ≠ .running) :
    step { s with turns := .hc (.complete j) :: ts } = .next { s with turns := ts } := by
  rw [Ne, lifecycle_running_iff, Bool.not_eq_true] at h
  simp only [step, nextAction, turnAction, hcAction]
  rcases h with hj | hrun
  · simp only [hj]
  · cases s.hc.held[j]? <;> simp [hrun]

end

/-- The fetch step (R295; log 46). -/
theorem hcHold_of_fetch {s t : State} {k : Nat} {e : HcEndpoint} {bs : List Byte}
    (hf : fetchRing s (.endpoint k) e.ring = some (bs, t)) (he : s.hc.endpoints[k]? = some e) :
    hcHold k s =
      if trbCycle (trbOfBytes bs) = e.ring.ccs ∧ trbTypeOf (trbOfBytes bs) ≠ 6 then
        { t with
          hc := learn [e.ring.p, (trbOfBytes bs).param]
            { t.hc with
              held := t.hc.held ++
                [{ owner := some k, slot := e.slot, endpoint := e.endpoint, addr := e.ring.p, trb := trbOfBytes bs }] } }
      else s := by
  simp only [hcHold, he, hf]

theorem hcHold_none {s : State} {k : Nat}
    (h : ∀ e, s.hc.endpoints[k]? = some e → fetchRing s (.endpoint k) e.ring = none) : hcHold k s = s := by
  unfold hcHold
  cases he : s.hc.endpoints[k]? with
  | none => rfl
  | some e => simp only [h e he]

/-- Settles O55: what is fetched decodes, and the step is `exec` of it; where nothing is fetched nothing changes. -/
theorem controllerStepRunsTheFetchedRecord : Obligations.ControllerStepRunsTheFetchedRecord := by
  unfold Obligations.ControllerStepRunsTheFetchedRecord
  intro s ts
  have fetches {sel : RingSel} (r : HcRing) (hrun : s.lifecycle = .running) (hheld : holdsFrom s.hc sel = false) :
      fetchRing (s.withTurns ts) sel r = fetchAt (s.withTurns ts) r.p :=
    fetchRing_of_running (s := s.withTurns ts) hrun hheld
  have fetchesNot {sel : RingSel} (r : HcRing) (h : s.lifecycle ≠ .running ∨ holdsFrom s.hc sel = true) :
      fetchRing (s.withTurns ts) sel r = none :=
    fetchRing_none (s := s.withTurns ts) (h.imp_right .inl)
  refine ⟨fun sel => ⟨fun ring hr => ⟨fun hrun halign hheld => ⟨fun hlive => ?live, fun hlive hstale => ?stale⟩,
      fun h => ?nothingThere⟩, fun h => ?noRing⟩,
    fun k e he => ⟨fun hrun halign hheld hlive => ?hold, fun hheld => ?holdsAlready⟩,
    fun j h hj hrun => ?complete, fun k => ⟨fun h => ?holdsNot, step_complete_none⟩⟩
  case live =>
    have hfetch := (fetches ring hrun hheld).trans (fetchAt_live (s := s.withTurns ts) halign hlive)
    exact ⟨_, decode_sixteen _ (fetchBytes_length _ _), step_consume (hcFetch_of_fetch hfetch hr)⟩
  case stale =>
    have hfetch := (fetches ring hrun hheld).trans (fetchAt_stale (s := s.withTurns ts) halign hlive hstale)
    exact ⟨_, decode_sixteen _ (by simp), step_consume (hcFetch_of_fetch hfetch hr)⟩
  case nothingThere =>
    refine step_consume_none (hcFetch_none fun r hr' => ?_)
    obtain rfl := Option.some.inj (hr.symm.trans hr')
    rcases h with h | h | h
    · exact fetchRing_none (s := s.withTurns ts) (.inr (.inr (fetchAt_none (.inl h))))
    · exact fetchRing_none (s := s.withTurns ts) (.inr (.inr (fetchAt_none (.inr h))))
    · exact fetchesNot ring (.inr h)
  case noRing =>
    refine step_consume_none (hcFetch_none fun r hr => ?_)
    rcases h with h | h
    · cases h.symm.trans hr
    · exact fetchesNot r (.inl h)
  case hold =>
    have hfetch := (fetches e.ring hrun hheld).trans (fetchAt_live (s := s.withTurns ts) halign hlive)
    refine (step_fetch k).trans ((congrArg _ (hcHold_of_fetch hfetch he)).trans ?_)
    exact apply_ite Host.Outcome.next _ _ _
  case holdsAlready =>
    exact (step_fetch k).trans (congrArg _ (hcHold_none fun e _ => fetchesNot e.ring (.inr hheld)))
  case complete =>
    refine ⟨_, decode_sixteen _ (trbBytes_length _), ?_⟩
    rw [trbOfBytes_trbBytes]
    exact step_complete hj hrun
  case holdsNot =>
    refine (step_fetch k).trans (congrArg _ (hcHold_none fun e he => ?_))
    rcases h with h | h
    · cases h.symm.trans he
    · exact fetchesNot e.ring (.inl h)

end Sys2Proof.Machine
end

section
/-! SUPPORT. The binary formats (R101 to R103, R116, R117, R119): bytes and words, the fields of a control word, and what the
decoder and the encoder make of each format. -/

namespace Sys2Proof.Machine

open Sys2Proof

/-! ### Bytes and words (R74, R101) -/

/-- Bit `i` of a little-endian word is bit `i % 8` of byte `i / 8` (R74). -/
theorem wordOf_getLsbD (bs : List Byte) (i : Nat) :
    (wordOf bs).getLsbD i = (decide (i < 64) && (bs.getD (i / 8) 0).getLsbD (i % 8)) := by
  induction bs generalizing i with
  | nil => simp [wordOf]
  | cons b bs ih =>
    rw [wordOf, BitVec.getLsbD_or, BitVec.getLsbD_shiftLeft, BitVec.getLsbD_setWidth, ih]
    by_cases h64 : i < 64
    · by_cases h8 : i < 8
      · have hdiv : i / 8 = 0 := by omega
        have hmod : i % 8 = i := by omega
        simp [h64, h8, hdiv, hmod]
      · have hdiv : i / 8 = (i - 8) / 8 + 1 := by omega
        have hmod : i % 8 = (i - 8) % 8 := by omega
        have hlt : i - 8 < 64 := by omega
        simp [h64, h8, hdiv, hmod, hlt, BitVec.getLsbD_of_ge b i (by omega)]
    · simp [h64]

/-- Bits of one byte of a little-endian word. -/
theorem extractLsb'_wordOf (bs : List Byte) {k lo n : Nat} (hk : k < 8) (hn : lo + n ≤ 8) :
    (wordOf bs).extractLsb' (8 * k + lo) n = (bs.getD k 0).extractLsb' lo n := by
  refine BitVec.eq_of_getLsbD_eq fun i hi => ?_
  have hdiv : (8 * k + lo + i) / 8 = k := by omega
  have hmod : (8 * k + lo + i) % 8 = lo + i := by omega
  have hlt : 8 * k + lo + i < 64 := by omega
  rw [BitVec.getLsbD_extractLsb', BitVec.getLsbD_extractLsb', wordOf_getLsbD, hdiv, hmod, decide_eq_true hlt,
    Bool.true_and]

/-- The bytes of the word of `n` bytes are those bytes (R74). -/
theorem bytesOf_wordOf {n : Nat} {bs : List Byte} (hbs : bs.length = n) (hn : n ≤ 8) : bytesOf n (wordOf bs) = bs := by
  refine List.ext_getElem (by simp [hbs]) fun k hk hk' => ?_
  have hbyte := extractLsb'_wordOf bs (k := k) (lo := 0) (n := 8) (by omega) (by omega)
  have hwhole : (bs.getD k 0).extractLsb' 0 8 = bs[k] := by
    rw [List.getD_eq_getElem _ _ hk', BitVec.extractLsb'_eq_self]
  simpa [bytesOf] using hbyte.trans hwhole

/-- The four low bytes of a word are those of its low half. -/
theorem bytesOf_four_setWidth (v : Word64) : bytesOf 4 ((v.setWidth 32 : Word32).setWidth 64) = bytesOf 4 v := by
  refine List.map_congr_left fun k hk => BitVec.eq_of_getLsbD_eq fun i hi => ?_
  have hlt : k < 4 := List.mem_range.1 hk
  have h32 : 8 * k + i < 32 := by omega
  have h64 : 8 * k + i < 64 := by omega
  simp [hi, h32, h64]

/-- Sixteen bytes are those of the record they are read as (R101). -/
theorem trbBytes_trbOfBytes {bs : List Byte} (h : bs.length = 16) : trbBytes (trbOfBytes bs) = bs := by
  have hparam : bytesOf 8 (wordOf (bs.take 8)) = bs.take 8 := bytesOf_wordOf (by simp [h]) (by omega)
  have hstatus : bytesOf 4 (wordOf ((bs.drop 8).take 4)) = (bs.drop 8).take 4 :=
    bytesOf_wordOf (by simp [h]) (by omega)
  have hcontrol : bytesOf 4 (wordOf (bs.drop 12)) = bs.drop 12 := bytesOf_wordOf (by simp [h]) (by omega)
  have hjoin : bs.take 8 ++ (bs.drop 8).take 4 = bs.take 12 := (List.take_add (i := 8) (j := 4)).symm
  rw [trbBytes, trbOfBytes, bytesOf_four_setWidth, bytesOf_four_setWidth, hparam, hstatus, hcontrol, hjoin,
    List.take_append_drop]

/-! ### The control word (R102, R103) -/

@[simp] theorem typeField_controlOf (code : BitVec 6) (r : Rec) : typeField (controlOf code r) = code := by
  unfold typeField controlOf
  rw [BitVec.extractLsb'_append_eq_of_le (by decide), BitVec.extractLsb'_append_eq_of_le (by decide),
    BitVec.extractLsb'_append_eq_right]

theorem controlOf_flags (code : BitVec 6) (r : Rec) : (controlOf code r).extractLsb' 1 9 = r.flags := by
  unfold controlOf
  rw [BitVec.extractLsb'_append_eq_of_le (by decide), BitVec.extractLsb'_append_eq_right]

theorem controlOf_mid (code : BitVec 6) (r : Rec) : (controlOf code r).extractLsb' 16 8 = r.mid := by
  unfold controlOf
  rw [BitVec.extractLsb'_append_eq_of_le (by decide), BitVec.extractLsb'_append_eq_of_le (by decide),
    BitVec.extractLsb'_append_eq_of_le (by decide), BitVec.extractLsb'_append_eq_right]

theorem controlOf_slot (code : BitVec 6) (r : Rec) : (controlOf code r).extractLsb' 24 8 = r.slot := by
  unfold controlOf
  rw [BitVec.extractLsb'_append_eq_of_le (by decide), BitVec.extractLsb'_append_eq_of_le (by decide),
    BitVec.extractLsb'_append_eq_of_le (by decide), BitVec.extractLsb'_append_eq_left]

theorem controlOf_cycle (code : BitVec 6) (r : Rec) : (controlOf code r).getLsbD 0 = r.cycle := by
  unfold controlOf
  rw [BitVec.getLsbD_append, if_pos (by decide)]
  cases r.cycle <;> rfl

/-- Everything of a record but its type field is read back from its words. -/
@[simp] theorem recOf_controlOf (code : BitVec 6) (r : Rec) : recOf r.param r.status (controlOf code r) = r := by
  simp only [recOf, controlOf_flags, controlOf_mid, controlOf_slot, controlOf_cycle]

/-- The five fields of a control word are all of it. -/
theorem controlOf_recOf (param : Word64) (status control : Word32) :
    controlOf (typeField control) (recOf param status control) = control := by
  have hcycle : BitVec.ofBool (control.getLsbD 0) = control.extractLsb' 0 1 :=
    BitVec.eq_of_getLsbD_eq fun i hi => by simp [Nat.lt_one_iff.1 hi]
  dsimp only [controlOf, recOf, typeField]
  rw [hcycle, BitVec.extractLsb'_append_extractLsb'_eq_extractLsb' (by decide),
    BitVec.extractLsb'_append_extractLsb'_eq_extractLsb' (by decide),
    BitVec.extractLsb'_append_extractLsb'_eq_extractLsb' (by decide),
    BitVec.extractLsb'_append_extractLsb'_eq_extractLsb' (by decide)]
  exact BitVec.extractLsb'_eq_self

/-! ### Records (R101, R103) -/

/-- The record type and the operands are read back from a record's words. -/
theorem decodeTrb_trbOf {l : Layout} (h : l.codesOk = true) (k : BitVec 6) (r : Rec) :
    decodeTrb l (trbOf l k r) = recordOf k r := by
  simp [decodeTrb, trbOf, l.kindOf_codeOf h]

/-- The words of a record are those of its type and operands. -/
theorem trbOf_recOf {l : Layout} (h : l.codesOk = true) (t : Trb) :
    trbOf l (l.kindOf (typeField t.control)) (recOf t.param t.status t.control) = t := by
  rw [trbOf, l.codeOf_kindOf h, controlOf_recOf]
  rfl

theorem encode_recordOf (l : Layout) (k : BitVec 6) (r : Rec) :
    encode l (recordOf k r) = some (encodeRecord l k r) := by
  obtain ⟨n, hn⟩ := k
  interval_cases n <;> rfl

/-- Each of the 64 type numbers has a constructor of its own, which keeps the operands. -/
theorem recordOf_injective {k k' : BitVec 6} {r r' : Rec} (h : recordOf k r = recordOf k' r') : k = k' ∧ r = r' := by
  have hbytes : trbBytes (trbOf .standard k r) = trbBytes (trbOf .standard k' r') := by
    have hencode := congrArg (encode .standard) h
    rw [encode_recordOf, encode_recordOf] at hencode
    exact congrArg Prod.snd (Option.some.inj hencode)
  have hwords : trbOf .standard k r = trbOf .standard k' r' := by
    rw [← trbOfBytes_trbBytes (trbOf .standard k r), hbytes, trbOfBytes_trbBytes]
  have htype := congrArg (fun t => typeField t.control) hwords
  have hrec := congrArg (fun t => recOf t.param t.status t.control) hwords
  exact ⟨by simpa [trbOf] using htype, by simpa [trbOf] using hrec⟩

/-! ### The three other words (R116, R117, R119) -/

/-- The fields of a doorbell word: the stream id, eight zero bits, the target (R116). -/
theorem dbWord_eq_append (t : BitVec 8) (st : BitVec 16) : dbWord t st = st ++ 0#8 ++ t := by
  refine BitVec.eq_of_getLsbD_eq fun i hi => ?_
  simp only [dbWord, BitVec.getLsbD_or, BitVec.getLsbD_shiftLeft, BitVec.getLsbD_setWidth, BitVec.getLsbD_append,
    BitVec.getLsbD_zero]
  by_cases h8 : i < 8
  · simp [h8, hi, show i < 16 by omega]
  · by_cases h16 : i < 16
    · simp [h8, h16, BitVec.getLsbD_of_ge t i (by omega), show i - 8 < 8 by omega]
    · simp [h8, h16, hi, BitVec.getLsbD_of_ge t i (by omega), show ¬i - 8 < 8 by omega,
        show i - 8 - 8 = i - 16 by omega, show i - 16 < 32 by omega]

theorem dbWord_target (t : BitVec 8) (st : BitVec 16) : (dbWord t st).extractLsb' 0 8 = t := by
  rw [dbWord_eq_append, BitVec.extractLsb'_append_eq_right]

/-- A word with bits 15:8 zero is the doorbell word of its target and stream id (R116). -/
theorem dbWord_of_zero {v : Word64} (h : v.extractLsb' 8 8 = 0) :
    dbWord (v.extractLsb' 0 8) (v.extractLsb' 16 16) = v.setWidth 32 := by
  have hzero : 0#8 = v.extractLsb' 8 8 := h.symm
  rw [dbWord_eq_append, hzero, BitVec.extractLsb'_append_extractLsb'_eq_extractLsb' (by decide),
    BitVec.extractLsb'_append_extractLsb'_eq_extractLsb' (by decide)]
  exact BitVec.eq_of_getLsbD_eq fun i hi => by simp [hi, show i < 64 by omega]

theorem decode_dbWord (l : Layout) (reg : Nat) (t : BitVec 8) (st : BitVec 16) :
    decode l (.dbword reg) (bytesOf 4 ((dbWord t st).setWidth 64)) = .ok (.dbword reg t st) := by
  have hword : wordOf (bytesOf 4 ((dbWord t st).setWidth 64)) = (dbWord t st).setWidth 64 := by
    rw [wordOf_bytesOf_four, setWidth_and_mask]
  have hfield {lo n : Nat} (h : lo + n ≤ 32) :
      ((dbWord t st).setWidth 64 : Word64).extractLsb' lo n = (dbWord t st).extractLsb' lo n :=
    BitVec.extractLsb'_setWidth_of_le (by omega)
  have hzero : (dbWord t st).extractLsb' 8 8 = 0 := by
    rw [dbWord_eq_append, BitVec.extractLsb'_append_eq_of_le (by decide), BitVec.extractLsb'_append_eq_right]
    rfl
  have hstream : (dbWord t st).extractLsb' 16 16 = st := by
    rw [dbWord_eq_append, BitVec.extractLsb'_append_eq_of_le (by decide),
      BitVec.extractLsb'_append_eq_left]
  simp only [decode, bytesOf_length, hword, hfield (by decide : 0 + 8 ≤ 32), hfield (by decide : 8 + 8 ≤ 32),
    hfield (by decide : 16 + 16 ≤ 32), dbWord_target, hzero, hstream, if_true]

theorem decode_crcrWord (l : Layout) (b : BitVec 58) :
    decode l .crcrword (bytesOf 8 (crcrWord b)) = .ok (.crcrword b) := by
  have hlow : (crcrWord b).extractLsb' 0 6 = 1 := BitVec.extractLsb'_append_eq_right
  have hbase : (crcrWord b).extractLsb' 6 58 = b := BitVec.extractLsb'_append_eq_left
  simp only [decode, bytesOf_length, wordOf_bytesOf_eight, hlow, hbase, if_true]

/-- A word with bits 5:0 = 000001 is the control word of its base (R117). -/
theorem crcrWord_of_low {v : Word64} (h : v.extractLsb' 0 6 = 1) : crcrWord (v.extractLsb' 6 58) = v := by
  have hone : 1#6 = v.extractLsb' 0 6 := h.symm
  rw [crcrWord, hone, BitVec.extractLsb'_append_extractLsb'_eq_extractLsb' (by decide)]
  exact BitVec.extractLsb'_eq_self

/-! ### What each format admits -/

/-- What an instruction that has bytes is: a record, or one of the three words. -/
theorem encode_cases {l : Layout} {i : Instr} {x : Format × List Byte} (h : encode l i = some x) :
    (∃ k r, x = encodeRecord l k r ∧ i = recordOf k r) ∨
    (∃ reg t st, x = (.dbword reg, bytesOf 4 ((dbWord t st).setWidth 64)) ∧ i = .dbword reg t st) ∨
    (∃ b, x = (.crcrword, bytesOf 8 (crcrWord b)) ∧ i = .crcrword b) ∨
    ∃ k a, x = (.dcbaaent k, bytesOf 8 a) ∧ i = .dcbaaent k a := by
  cases i with
  | dbword reg t st => exact .inr (.inl ⟨reg, t, st, (Option.some.inj h).symm, rfl⟩)
  | crcrword b => exact .inr (.inr (.inl ⟨b, (Option.some.inj h).symm, rfl⟩))
  | dcbaaent k a => exact .inr (.inr (.inr ⟨k, a, (Option.some.inj h).symm, rfl⟩))
  | _ =>
    cases h
    all_goals exact .inl ⟨_, _, rfl, rfl⟩

section

variable {l : Layout} {bs : List Byte} {i : Instr}

theorem decode_trb_iff : decode l .trb bs = .ok i ↔ bs.length = 16 ∧ i = decodeTrb l (trbOfBytes bs) := by
  simp only [decode]
  split <;> simp [*, eq_comm (a := i)]

theorem decode_dbword_iff {reg : Nat} : decode l (.dbword reg) bs = .ok i ↔
    bs.length = 4 ∧ (wordOf bs).extractLsb' 8 8 = 0 ∧
      i = .dbword reg ((wordOf bs).extractLsb' 0 8) ((wordOf bs).extractLsb' 16 16) := by
  simp only [decode]
  split_ifs <;> simp only [*, true_and, false_and, Except.ok.injEq, eq_comm (a := i)]

theorem decode_crcrword_iff : decode l .crcrword bs = .ok i ↔
    bs.length = 8 ∧ (wordOf bs).extractLsb' 0 6 = 1 ∧ i = .crcrword ((wordOf bs).extractLsb' 6 58) := by
  simp only [decode]
  split_ifs <;> simp only [*, true_and, false_and, Except.ok.injEq, eq_comm (a := i)]

theorem decode_dcbaaent_iff {k : Nat} : decode l (.dcbaaent k) bs = .ok i ↔
    bs.length = 8 ∧ i = .dcbaaent k (wordOf bs) := by
  simp only [decode]
  split <;> simp [*, eq_comm (a := i)]

end

/-! ### The statements -/

/-- Settles O1: an instruction with bytes is a record or one of the three words, and each is read back. -/
theorem decodeOfEncodeIsIdentity : Obligations.DecodeOfEncodeIsIdentity := by
  unfold Obligations.DecodeOfEncodeIsIdentity
  intro l i f bs hl h
  rcases encode_cases h with ⟨k, r, hx, rfl⟩ | ⟨reg, t, st, hx, rfl⟩ | ⟨b, hx, rfl⟩ | ⟨k, a, hx, rfl⟩ <;> cases hx
  · rw [decode_sixteen l (trbBytes_length _), trbOfBytes_trbBytes, decodeTrb_trbOf hl]
  · exact decode_dbWord l reg t st
  · exact decode_crcrWord l b
  · exact decode_dcbaaent_iff.2 ⟨bytesOf_length 8 a, by rw [wordOf_bytesOf_eight]⟩

/-- Settles O3: the type numbers are the codes of R108, the constructors are apart, and a record's three words are its
type and its operands. -/
theorem typeFieldAloneSelectsTheRecord : Obligations.TypeFieldAloneSelectsTheRecord := by
  unfold Obligations.TypeFieldAloneSelectsTheRecord
  refine ⟨Layout.standard_kindOf, fun _ _ _ _ => recordOf_injective, fun l hl => ⟨fun c c' h => ?_, fun t => ⟨rfl, ?_⟩⟩⟩
  · rw [← l.codeOf_kindOf hl c, h, l.codeOf_kindOf hl]
  · exact trbOf_recOf hl t

/-- Settles O4: what each format admits is read off its words, and their bytes are written back. -/
theorem formatsAdmitExactlyTheirWords : Obligations.FormatsAdmitExactlyTheirWords := by
  unfold Obligations.FormatsAdmitExactlyTheirWords
  refine fun l => ⟨fun bs => ?trb, fun reg bs => ?dbword, fun bs => ?crcrword, fun k bs => ?dcbaaent,
    fun hl f bs i h => ?encoded⟩
  case trb => simp only [decode_trb_iff, exists_and_left, exists_eq, and_true]
  case dbword =>
    have hbyte : bs.length = 4 → ((wordOf bs).extractLsb' 8 8 = 0 ↔ bs[1]? = some 0) := fun h => by
      have hone : 1 < bs.length := by omega
      have hfield := extractLsb'_wordOf bs (k := 1) (lo := 0) (n := 8) (by decide) (by decide)
      rw [BitVec.extractLsb'_eq_self, List.getD_eq_getElem _ _ hone] at hfield
      rw [List.getElem?_eq_getElem hone, Option.some.injEq, ← hfield]
    simpa only [decode_dbword_iff, exists_and_left, exists_eq, and_true] using and_congr_right hbyte
  case crcrword =>
    have hbyte : bs.length = 8 → ((wordOf bs).extractLsb' 0 6 = 1 ↔ ∃ b, bs[0]? = some b ∧ b.extractLsb' 0 6 = 1) :=
      fun h => by
        have hzero : 0 < bs.length := by omega
        have hfield := extractLsb'_wordOf bs (k := 0) (lo := 0) (n := 6) (by decide) (by decide)
        rw [List.getD_eq_getElem _ _ hzero] at hfield
        simp [List.getElem?_eq_getElem hzero, ← hfield]
    simpa only [decode_crcrword_iff, exists_and_left, exists_eq, and_true] using and_congr_right hbyte
  case dcbaaent => simp only [decode_dcbaaent_iff, exists_and_left, exists_eq, and_true]
  case encoded =>
    cases f with
    | trb =>
      obtain ⟨hlen, rfl⟩ := decode_trb_iff.1 h
      rw [decodeTrb, encode_recordOf, encodeRecord, trbOf_recOf hl, trbBytes_trbOfBytes hlen]
    | dbword reg =>
      obtain ⟨hlen, hzero, rfl⟩ := decode_dbword_iff.1 h
      rw [encode, dbWord_of_zero hzero, bytesOf_four_setWidth, bytesOf_wordOf hlen (by decide)]
    | crcrword =>
      obtain ⟨hlen, hlow, rfl⟩ := decode_crcrword_iff.1 h
      rw [encode, crcrWord_of_low hlow, bytesOf_wordOf hlen (by decide)]
    | dcbaaent k =>
      obtain ⟨hlen, rfl⟩ := decode_dcbaaent_iff.1 h
      rw [encode, bytesOf_wordOf hlen (by decide)]

/-- Settles O5: five words, each read by the decoder. -/
theorem writtenOutWordsDecode : Obligations.WrittenOutWordsDecode := by
  unfold Obligations.WrittenOutWordsDecode
  exact ⟨rfl, rfl, rfl, rfl, rfl⟩

end Sys2Proof.Machine
end

section
/-! SUPPORT. The writes of registers that have an operation of their own: the three setters and a `CRCR` word (R117, R265 to R267),
and the doorbells (R116, R268, R336). -/

namespace Sys2Proof.Machine

open Sys2Proof

/-! ### Words written to registers -/

theorem and_maskOf_sixtyFour (v : Word64) : v &&& maskOf (8 * 8) = v :=
  BitVec.eq_of_getLsbD_eq fun i hi => by simp [maskOf_getLsbD, hi]

/-- The one access by which an 8-byte register is written where 8-byte accesses are whole (D10). -/
theorem comes_writeWord_reg_traced {s s' : State} {r : Reg} {v : Word64} {k : Prog} (hw : s.writeReg v r = .ok s')
    (h : ∃ tr, Comes (writeWord (.reg r) 8 v k) s k { s' with trace := tr }) :
    ∃ tr, Comes (writeWord (.reg r) 8 v k) s k { s' with trace := tr } ∧
      (s.cfg.split64 = false →
        tr = { agent := s'.agent, kind := .write, loc := .reg r, bytes := 8, value := v } :: s'.trace) := by
  cases hsplit : s.cfg.split64 with
  | true =>
    obtain ⟨tr, hrun⟩ := h
    exact ⟨tr, hrun, nofun⟩
  | false =>
    have hrun := (comes_writeWord_whole (n := 8) (fun _ => hsplit) (.reg r) v k).trans
      (comes_writeOnce (l := .reg r) (n := 8) hw k)
    rw [and_maskOf_sixtyFour] at hrun
    exact ⟨_, hrun, fun _ => rfl⟩

/-- A command-ring-control word is its base, 64-aligned, with bit 0 set (R117). -/
theorem crcrWord_eq_ofNat (base : BitVec 58) : crcrWord base = BitVec.ofNat 64 (base.toNat * 64 + 1) := by
  refine BitVec.eq_of_toNat_eq ?_
  have hbase := base.isLt
  have hjoin : base.toNat <<< 6 ||| 1 = base.toNat <<< 6 + 1 := (Nat.shiftLeft_add_eq_or_of_lt (by decide) _).symm
  have hone : (1#6).toNat = 1 := rfl
  rw [crcrWord, BitVec.toNat_append, hone, hjoin, Nat.shiftLeft_eq, BitVec.toNat_ofNat]
  omega

/-! ### The setters (R265 to R267) -/

section

variable {s : State} (hs : Unmarked s)

include hs

theorem exec_setDcbaaPtr (addr : Word64) :
    ∃ t, exec (.setDcbaaPtr addr) s = .next t ∧
      t = { s.finish .unit with op := { s.op with dcbaap := addr }, hc := learn [addr] s.hc, trace := t.trace } ∧
      (s.cfg.split64 = false →
        t.trace = { agent := s.agent, kind := .write, loc := .reg .dcbaap, bytes := 8, value := addr } :: s.trace) := by
  obtain ⟨tr, hrun, htrace⟩ := comes_writeWord_reg_traced (r := .dcbaap) (v := addr) rfl
    (comes_writeWord_dcbaap addr (.ret .unit) s)
  exact ⟨_, runOp_ret hs.1 hs.2 hrun _, rfl, htrace⟩

/-- An operation that writes `CRCR`, once what the write loads is known. -/
theorem exec_writeCrcr {i : Instr} {v : Word64} {s' : State}
    (hexec : exec i s = runOp i (writeWord (.reg .crcr) 8 v (.ret .unit)) s) (hload : loadCrcr v s = s') :
    ∃ tr, exec i s = .next (State.finish { s' with trace := tr } .unit) ∧
      (s.cfg.split64 = false →
        tr = { agent := s'.agent, kind := .write, loc := .reg .crcr, bytes := 8, value := v } :: s'.trace) := by
  have hwrite : s.writeReg v .crcr = .ok s' := congrArg Except.ok hload
  have hcomes := comes_writeWord_crcr v (.ret .unit) s
  rw [hload] at hcomes
  obtain ⟨tr, hrun, htrace⟩ := comes_writeWord_reg_traced hwrite hcomes
  exact ⟨tr, hexec.trans (runOp_ret hs.1 hs.2 hrun i), htrace⟩

theorem exec_setNumDeviceSlots (hl : StandardLayout s) (n : BitVec 8) :
    ∃ t, exec (.setNumDeviceSlots n) s = .next t ∧
      t = { s.finish .unit with
        op := { s.op with config := (s.op.config &&& 0xFFFFFF00) ||| n.setWidth 32 }, trace := t.trace } := by
  have hexec : exec (.setNumDeviceSlots n) s =
      runOp (.setNumDeviceSlots n) (progSetNumDeviceSlots .standard n) s :=
    congrArg (fun l => runOp (.setNumDeviceSlots n) (progSetNumDeviceSlots l n) s) hl
  have hword : (writeSpan 32 0 8 (s.op.config.setWidth 64) (n.setWidth 64)).setWidth 32 =
      (s.op.config &&& 0xFFFFFF00) ||| n.setWidth 32 := by
    refine BitVec.eq_of_getLsbD_eq fun i hi => ?_
    have h64 : i < 64 := by omega
    have hkept : (0xFFFFFF00 : Word32).getLsbD i = !decide (i < 8) := by interval_cases i <;> rfl
    simp only [writeSpan_getLsbD _ _ hi, BitVec.getLsbD_or, BitVec.getLsbD_and, BitVec.getLsbD_setWidth, hkept]
    by_cases h8 : i < 8
    · simp [h8, h64, hi]
    · simp [h8, BitVec.getLsbD_of_ge n i (by omega)]
  have hwrite := (wordReg_config hl).write (writeSpan 32 0 8 (s.op.config.setWidth 64) (n.setWidth 64))
  rw [hword] at hwrite
  obtain ⟨tr, hrun⟩ := comes_writeBitsAt_reg (n := 4)
    (s' := { s with op := { s.op with config := (s.op.config &&& 0xFFFFFF00) ||| n.setWidth 32 } }) (by decide)
    (wordReg_config hl).read (by decide) hwrite (.ret .unit)
  exact ⟨_, hexec.trans (runOp_ret hs.1 hs.2 hrun _), rfl⟩

end

/-- Settles O41: each setter is one write of its register, and `CRCR` loads as the controller's state says. -/
theorem settersWriteTheirRegisters : Obligations.SettersWriteTheirRegisters := by
  unfold Obligations.SettersWriteTheirRegisters
  intro addr value n base s hs hl crcr
  have hcrcr {i : Instr} {v : Word64}
      (hexec : exec i s = runOp i (writeWord (.reg .crcr) 8 v (.ret .unit)) s) : crcr i v := by
    refine ⟨fun h => ?halted, fun h => ?running, fun hsplit => ?trace⟩
    case halted =>
      obtain ⟨tr, hrun, -⟩ := exec_writeCrcr hs hexec (loadCrcr_of_halted hl h v)
      exact ⟨_, hrun, rfl⟩
    case running =>
      obtain ⟨c, hload⟩ := loadCrcr_of_not_halted hl h v
      obtain ⟨tr, hrun, -⟩ := exec_writeCrcr hs hexec hload
      exact ⟨_, c, hrun, rfl⟩
    case trace =>
      obtain ⟨tr, hrun, htrace⟩ := exec_writeCrcr hs hexec rfl
      rw [loadCrcr_frame] at htrace
      exact ⟨_, hrun, htrace hsplit⟩
  exact ⟨exec_setDcbaaPtr hs addr, hcrcr rfl, hcrcr (crcrWord_eq_ofNat base ▸ rfl), exec_setNumDeviceSlots hs hl n⟩

/-! ### Doorbells (R53, R268, R336) -/

/-- A doorbell write changes nothing of the controller but the set of rings with a pending doorbell. -/
theorem ringDoorbell_frame (l : Layout) (h : HcHidden) (i : Nat) (w : Word32) :
    ringDoorbell l h i w = { h with pending := (ringDoorbell l h i w).pending } := by
  unfold ringDoorbell
  split
  · rfl
  · split <;> rfl

/-- The ring that a doorbell word addresses is pending after it. -/
theorem mem_ringDoorbell {l : Layout} {h : HcHidden} {i : Nat} {w : Word32} {x : RingSel}
    (hx : doorbellRing l h i w = some x) (r : RingSel) :
    r ∈ (ringDoorbell l h i w).pending ↔ r ∈ h.pending ∨ r = x := by
  simp only [ringDoorbell, hx]
  split
  · next hmem => exact ⟨.inl, fun hr => hr.elim id fun e => e ▸ hmem⟩
  · rw [List.mem_append, List.mem_singleton]

/-- A ring the controller does not know is ignored. -/
theorem ringDoorbell_none {l : Layout} {h : HcHidden} {i : Nat} {w : Word32} (hx : doorbellRing l h i w = none) :
    ringDoorbell l h i w = h := by simp only [ringDoorbell, hx]

section

variable {h : HcHidden} {i : Nat} {w : Word32} {target : Nat} (ht : (w.extractLsb' 0 8).toNat = target)

include ht

theorem doorbellRing_command (hi : i = 0) (ht0 : target = 0) : doorbellRing .standard h i w = some .command := by
  have hzero : w.extractLsb' 0 8 = 0 := BitVec.eq_of_toNat_eq (ht.trans ht0)
  simp [doorbellRing, Layout.standard, hi, hzero]

/-- The endpoint that a doorbell word addresses. -/
theorem addressed_iff (e : HcEndpoint) :
    (decide (e.slot.toNat = i) && decide (e.endpoint.setWidth 8 = w.extractLsb' 0 8)) = true ↔
      e.slot.toNat = i ∧ e.endpoint.toNat = target := by
  have hwidth : (e.endpoint.setWidth 8).toNat = e.endpoint.toNat := by
    rw [BitVec.toNat_setWidth]
    have := e.endpoint.isLt
    omega
  rw [Bool.and_eq_true, decide_eq_true_eq, decide_eq_true_eq, ← BitVec.toNat_inj, hwidth, ht]

theorem doorbellRing_endpoint (hi : i ≠ 0) {k : Nat} {e : HcEndpoint} (he : h.endpoints[k]? = some e)
    (haddr : e.slot.toNat = i ∧ e.endpoint.toNat = target)
    (hfirst : ∀ j < k, ∀ x, h.endpoints[j]? = some x → ¬(x.slot.toNat = i ∧ x.endpoint.toNat = target)) :
    doorbellRing .standard h i w = some (.endpoint k) := by
  have hcommand : i ≠ Layout.standard.commandDoorbell := hi
  obtain ⟨hk, rfl⟩ := List.getElem?_eq_some_iff.1 he
  simp only [doorbellRing, if_neg hcommand, Option.map_eq_some_iff, RingSel.endpoint.injEq, exists_eq_right]
  refine List.findIdx?_eq_some_iff_getElem.2 ⟨hk, (addressed_iff ht _).2 haddr, fun j hj => ?_⟩
  rw [addressed_iff ht]
  exact hfirst j hj _ (List.getElem?_eq_getElem (by omega))

theorem doorbellRing_none (hcmd : ¬(i = 0 ∧ target = 0))
    (hno : ∀ x ∈ h.endpoints, ¬(i ≠ 0 ∧ x.slot.toNat = i ∧ x.endpoint.toNat = target)) :
    doorbellRing .standard h i w = none := by
  by_cases hi : i = 0
  · have hne : w.extractLsb' 0 8 ≠ 0 := fun h0 => hcmd ⟨hi, ht ▸ congrArg BitVec.toNat h0⟩
    have hcommand : i = Layout.standard.commandDoorbell := hi
    exact (if_pos hcommand).trans (if_neg hne)
  · have hcommand : i ≠ Layout.standard.commandDoorbell := hi
    simp only [doorbellRing, if_neg hcommand, Option.map_eq_none_iff, List.findIdx?_eq_none_iff]
    refine fun e he => Bool.eq_false_iff.2 fun hb => hno e he ⟨hi, (addressed_iff ht e).1 hb⟩

end

/-- Taking the lock of a Doorbell register and releasing it leaves every lock as it was. -/
theorem dbLocks_restored {s : State} {i : Nat} (h : s.lock? (.doorbell i) = some .free) (a : CpuAgent) :
    (((i, a) :: s.dbLocks.filter fun e => e.1 != i).filter fun e => e.1 != i) = s.dbLocks := by
  have hnone : s.dbLocks.find? (fun e => e.1 == i) = none := by
    simp only [State.lock?, Option.some.injEq] at h
    split at h
    · cases h
    · assumption
  rw [List.find?_eq_none] at hnone
  rw [List.filter_cons_of_neg (by simp), List.filter_filter]
  refine List.filter_eq_self.2 fun e he => ?_
  simpa using hnone e he

/-- A doorbell word is `target | (stream_id << 16)` (R116). -/
theorem dbWord_toNat (t : BitVec 8) (st : BitVec 16) : (dbWord t st).toNat = t.toNat + st.toNat * 65536 := by
  have hlow : st.toNat <<< 8 ||| (0#8).toNat = st.toNat <<< 8 := Nat.or_zero _
  rw [dbWord_eq_append, BitVec.toNat_append, BitVec.toNat_append, hlow, ← Nat.shiftLeft_add_eq_or_of_lt t.isLt,
    Nat.shiftLeft_eq, Nat.shiftLeft_eq]
  omega

theorem dbWord_value {target stream : Nat} (ht : target < 256) (hst : stream < 65536) :
    ((dbWord (BitVec.ofNat 8 target) (BitVec.ofNat 16 stream)).setWidth 64 : Word64) =
      BitVec.ofNat 64 (target + stream * 65536) := by
  refine BitVec.eq_of_toNat_eq ?_
  rw [BitVec.toNat_setWidth, dbWord_toNat, BitVec.toNat_ofNat, BitVec.toNat_ofNat, BitVec.toNat_ofNat]
  omega

/-- Under the register's lock one word is written, and the lock is free again (R268). -/
theorem comes_ringBell {s : State} (hl : StandardLayout s) {reg : Nat} (hreg : reg < s.cfg.numDoorbells)
    (hfree : s.lock? (.doorbell reg) = some .free) (w : Word32) :
    Comes (ringBell reg w) s (.ret .unit)
      { s with
        hc := ringDoorbell .standard s.hc reg w
        trace :=
          { agent := s.agent, kind := .write, loc := .reg (.doorbell reg), bytes := 4,
            value := w.setWidth 64 } :: s.trace } := by
  have hlock := comes_acquire hfree
    (writeWord (.reg (.doorbell reg)) 4 (w.setWidth 64) (release (.doorbell reg) (.ret .unit)))
  have hwrite := (comes_writeWord_whole (s := s.setLock (.doorbell reg) (.held s.agent)) (n := 4)
    (absurd · (by decide)) (.reg (.doorbell reg)) (w.setWidth 64) _).trans
    ((comes_writeOnce (l := .reg (.doorbell reg)) (n := 4) rfl _).trans (comes_release (.doorbell reg) (.ret .unit) _))
  have hmask : (w.setWidth 64 : Word64) &&& maskOf (8 * 4) = w.setWidth 64 := setWidth_and_mask w
  have hdone := (comes_require (c := fun s => decide (reg < s.cfg.numDoorbells)) (decide_eq_true hreg)
    .doorbellIndex _).trans (hlock.trans hwrite)
  dsimp only [State.setLock, State.log] at hdone
  rw [dbLocks_restored hfree, hl, hmask, setWidth_setWidth_32] at hdone
  exact hdone

/-- An operation that rings doorbell `reg`. -/
theorem exec_ringBell {i : Instr} {s : State} {reg : Nat} {w : Word32} (hs : Unmarked s) (hl : StandardLayout s)
    (hreg : reg < s.cfg.numDoorbells) (hfree : s.lock? (.doorbell reg) = some .free)
    (hexec : exec i s = runOp i (ringBell reg w) s) :
    exec i s = .next { s.finish .unit with
      hc := { s.hc with pending := (ringDoorbell .standard s.hc reg w).pending }
      trace :=
        { agent := s.agent, kind := .write, loc := .reg (.doorbell reg), bytes := 4, value := w.setWidth 64 } ::
          s.trace } := by
  rw [hexec, runOp_ret hs.1 hs.2 (comes_ringBell hl hreg hfree w), ← ringDoorbell_frame]
  rfl

theorem exec_ringBell_refused {i : Instr} {s : State} {reg : Nat} {w : Word32} (hs : Unmarked s)
    (hreg : s.cfg.numDoorbells ≤ reg) (hexec : exec i s = runOp i (ringBell reg w) s) :
    exec i s = .next (raiseRefusal .doorbellIndex s) := by
  have hnot : ¬reg < s.cfg.numDoorbells := by omega
  simp [hexec, runOp_unmarked hs.1 hs.2, ringBell, require, run, hnot]

/-- `notify` of operands that fit their widths rings the doorbell. -/
theorem exec_notify_of_fits {reg target stream : Nat} (ht : target < 256) (hst : stream < 65536) (s : State) :
    exec (.notify reg target stream) s =
      runOp (.notify reg target stream)
        (ringBell reg (dbWord (BitVec.ofNat 8 target) (BitVec.ofNat 16 stream))) s :=
  congrArg (runOp _ · s) (progNotify_of_fits ht hst)

theorem exec_notify_of_wide {reg target stream : Nat} {s : State} (hs : Unmarked s)
    (h : ¬(target < 256 ∧ stream < 65536)) :
    exec (.notify reg target stream) s = .next (raiseRefusal .operandWidth s) := by
  have hwide : (fits 8 target && fits 16 stream) = false := by
    rw [Bool.and_eq_false_iff, decide_eq_false_iff_not, decide_eq_false_iff_not]
    exact not_and_or.1 h
  have hprog : progNotify reg target stream = .refuse .operandWidth := by simp only [progNotify, needs, hwide]; rfl
  exact (congrArg (runOp _ · s) hprog).trans (runOp_unmarked hs.1 hs.2 _ _)

/-- Settles O42: both operations ring the same doorbell with the same word, and the word addresses the ring that R336
says. -/
theorem notifyWritesOneDoorbellWord : Obligations.NotifyWritesOneDoorbellWord := by
  unfold Obligations.NotifyWritesOneDoorbellWord
  refine fun reg target stream s hs hl => ⟨fun ht hst hreg hfree => ?rings, exec_notify_of_wide hs,
    fun ht hst hreg => ⟨exec_ringBell_refused hs hreg (exec_notify_of_fits ht hst s),
      exec_ringBell_refused hs hreg rfl⟩⟩
  case rings =>
    have htarget :
        ((dbWord (BitVec.ofNat 8 target) (BitVec.ofNat 16 stream)).extractLsb' 0 8).toNat = target := by
      rw [dbWord_target, BitVec.toNat_ofNat, Nat.mod_eq_of_lt ht]
    rw [← dbWord_value ht hst]
    exact ⟨_, exec_ringBell hs hl hreg hfree (exec_notify_of_fits ht hst s), exec_ringBell hs hl hreg hfree rfl,
      fun hi ht0 r => mem_ringDoorbell (doorbellRing_command htarget hi ht0) r,
      fun k e hi he hslot hend hfirst r => mem_ringDoorbell
        (doorbellRing_endpoint htarget hi he ⟨hslot, hend⟩ hfirst) r,
      fun hcmd hno => congrArg HcHidden.pending (ringDoorbell_none (doorbellRing_none htarget hcmd hno))⟩

end Sys2Proof.Machine
end

section
/-! SUPPORT. The DCBAA (R119, R297). -/

namespace Sys2Proof.Machine

open Sys2Proof

/-! ### Making the DCBAA -/

/-- An admissible answer of the allocator is the new block (R290). -/
theorem comes_allocate_of_admissible {size align : Nat} {s : State} (h : admissible s size align s.draw.1 = true)
    (kind : AllocKind) (k : Addr → Prog) : Comes (allocate size align kind k) s (k s.draw.1) (s.withBlock size kind) :=
  Comes.of_done (v := .word s.draw.1) (by simp [h, State.withBlock])

/-- Which blocks are freed does not depend on how the operation in progress ends. -/
theorem freeAllocs_finish (bases : List Addr) (r : Result) (s : State) :
    freeAllocs bases (s.finish r) = (freeAllocs bases s).finish r := by
  have hreach : inReach (s.finish r) = inReach s := funext (inReach_congr rfl rfl rfl)
  unfold freeAllocs
  rw [hreach]
  rfl

/-- `Dcbaa::new` (R297). -/
theorem exec_dcbaaNew {s : State} (hs : Unmarked s) (h : admissible s 2048 4096 s.draw.1 = true) :
    exec .dcbaaNew s = .next ((installDcbaa s.draw.1 (s.withBlock 2048 .dcbaa)).finish (.region s.draw.1 2048)) :=
  runOp_ret hs.1 hs.2 ((comes_allocate_of_admissible h .dcbaa _).trans (comes_update _ _ _)) _

theorem installDcbaa_finish (p : Addr) (r : Result) (s : State) :
    (installDcbaa p s).finish r = { freeAllocs (ownedBlocks .dcbaa s) (s.finish r) with dcbaa := some p } := by
  rw [freeAllocs_finish]
  rfl

/-! ### Entries -/

/-- Entry `i` lies in the 2048 bytes from the base (R35). -/
theorem entryAt_toNat {b : Addr} (hb : b.toNat + 2048 ≤ 2 ^ 64) {i : Nat} (hi : i < 256) :
    (entryAt b i).toNat = b.toNat + 8 * i := by
  rw [entryAt, BitVec.toNat_add, BitVec.toNat_ofNat]
  omega

/-- An index below 256 is one of the DCBAA that stands. -/
theorem comes_dcbaaIndex {s : State} {b : Addr} (hd : s.dcbaa = some b) {i : Nat} (hi : i < 256) (k : Addr → Prog) :
    Comes (needs (decide (i < Config.dcbaaEntries)) .dcbaaIndex (getDcbaa k)) s (k b) s :=
  (comes_needs (decide_eq_true hi) .dcbaaIndex _ s).trans (comes_getDcbaa hd k)

section

variable {s : State} (hs : Unmarked s) {b : Addr} (hd : s.dcbaa = some b) {i : Nat}

include hs

/-- An index of 256 or more is refused (R297, R306). -/
theorem runOp_dcbaaIndex_refused (hi : 256 ≤ i) (op : Instr) (k : Prog) :
    runOp op (needs (decide (i < Config.dcbaaEntries)) .dcbaaIndex k) s = .next (raiseRefusal .dcbaaIndex s) := by
  have hnot : decide (i < Config.dcbaaEntries) = false := decide_eq_false (Nat.not_lt.2 hi)
  rw [hnot, runOp_unmarked hs.1 hs.2]
  rfl

variable (hb : b.toNat + 2048 ≤ 2 ^ 64) (hi : i < 256)

include hd hb hi

theorem exec_dcbaaSetEntry (addr : Word64) :
    ∃ tr, ∀ op, runOp op (progDcbaaSetEntry i addr) s =
      .next (State.finish { s with mem := s.mem.writeWord (entryAt b i) 8 addr, trace := tr } .unit) := by
  have hat := entryAt_toNat hb hi
  obtain ⟨tr, hwrite⟩ := comes_writeWord_dma (a := entryAt b i) (n := 8) (fun _ => by omega) addr (.ret .unit) s
  exact ⟨tr, runOp_ret hs.1 hs.2
    ((comes_dcbaaIndex hd hi fun b => writeWord (.dma (entryAt b i)) 8 addr (.ret .unit)).trans hwrite)⟩

theorem exec_dcbaaEntry :
    ∃ t, exec (.dcbaaEntry i) s = .next t ∧ Answered s t (.word (s.mem.readWord (entryAt b i) 8)) := by
  have hat := entryAt_toNat hb hi
  obtain ⟨tr, hread⟩ := comes_readWord_dma (a := entryAt b i) (n := 8) (fun _ => by omega) (fun v => .ret (.word v)) s
  have hentry := (comes_dcbaaIndex hd hi fun b => readWord (.dma (entryAt b i)) 8 fun v => .ret (.word v)).trans hread
  exact ⟨_, runOp_ret hs.1 hs.2 hentry _, rfl⟩

end

/-- Settles O46: the new block reads 0 and keeps its place, and an entry is one word of memory. -/
theorem dcbaaEntriesAreStoredAndRead : Obligations.DcbaaEntriesAreStoredAndRead := by
  unfold Obligations.DcbaaEntriesAreStoredAndRead
  refine fun i addr s hs hm => ⟨fun h => ?new, fun b hd hb hi => ⟨?store, exec_dcbaaEntry hs hd hb hi⟩,
    fun hi => ⟨runOp_dcbaaIndex_refused hs hi _ _, runOp_dcbaaIndex_refused hs hi _ _,
      runOp_dcbaaIndex_refused hs hi _ _⟩⟩
  case new =>
    have hread := Memory.read_clear hm s.draw.1.toNat 2048
    refine ⟨_, exec_dcbaaNew hs h, fun x hx => ?outside, fun x hlo hhi => ?zeroed, ?frame⟩
    case outside => exact (hread x).trans (if_neg (by omega))
    case zeroed => exact (hread x).trans (if_pos ⟨hlo, hhi⟩)
    case frame =>
      rw [installDcbaa_finish]
      rfl
  case store =>
    have hat := entryAt_toNat hb hi
    obtain ⟨tr, hrun⟩ := exec_dcbaaSetEntry hs hd hb hi addr
    refine ⟨_, hrun _, hrun _, ⟨fun x hx => ?_, rfl⟩, Memory.readWord_writeWord_64 hm _ addr⟩
    exact (Memory.read_writeWord hm _ 8 addr x).trans (if_neg (by omega))

end Sys2Proof.Machine
end

section
/-! SUPPORT. The controller's execution of a record (R331, R332): a record's fields from its type number and operands, the events
it enqueues, the data it brings in, and the ring it moves past. -/

namespace Sys2Proof.Machine

open Sys2Proof

/-! ### A record by its type number and operands (R102, R104) -/

theorem exec_recordOf (code : BitVec 6) (r : Rec) (s : State) : exec (recordOf code r) s = consumeRecord code r s := by
  obtain ⟨n, hn⟩ := code
  interval_cases n <;> rfl

/-- Bits of a field of a word are the word's bits above the field's lowest. -/
theorem extractLsb'_of_extractLsb' {w n lo : Nat} {x : BitVec w} {y : BitVec n} (h : x.extractLsb' lo n = y) {i m : Nat}
    (hi : i + m ≤ n) : x.extractLsb' (lo + i) m = y.extractLsb' i m := by
  refine BitVec.eq_of_getLsbD_eq fun j hj => ?_
  have hlt : i + j < n := by omega
  rw [← h, BitVec.getLsbD_extractLsb', BitVec.getLsbD_extractLsb', BitVec.getLsbD_extractLsb', decide_eq_true hlt,
    Nat.add_assoc, Bool.true_and]

theorem getLsbD_of_extractLsb' {w n lo : Nat} {x : BitVec w} {y : BitVec n} (h : x.extractLsb' lo n = y) {i : Nat}
    (hi : i < n) : x.getLsbD (lo + i) = y.getLsbD i := by
  rw [← h, BitVec.getLsbD_extractLsb', decide_eq_true hi, Bool.true_and]

section

variable (code : BitVec 6) (r : Rec)

@[simp] theorem trbOf_param : (trbOf .standard code r).param = r.param := rfl
@[simp] theorem trbOf_status : (trbOf .standard code r).status = r.status := rfl
@[simp] theorem trbTypeOf_trbOf : trbTypeOf (trbOf .standard code r) = code :=
  (typeField_controlOf _ r).trans (Layout.standard_codeOf code)
@[simp] theorem trbCycle_trbOf : trbCycle (trbOf .standard code r) = r.cycle := controlOf_cycle _ r
@[simp] theorem trbToggle_trbOf : trbToggle (trbOf .standard code r) = r.flags.getLsbD 0 :=
  getLsbD_of_extractLsb' (controlOf_flags _ r) (i := 0) (by decide)
@[simp] theorem trbSlotId_trbOf : trbSlotId (trbOf .standard code r) = r.slot := controlOf_slot _ r
@[simp] theorem trbIsp_trbOf :
    trbIsp .standard (trbOf .standard code r) = ([1, 3, 5].contains code && r.flags.getLsbD 1) := by
  rw [trbIsp_standard, trbTypeOf_trbOf]
  exact congrArg _ (getLsbD_of_extractLsb' (controlOf_flags _ r) (i := 1) (by decide))
@[simp] theorem trbIoc_trbOf :
    trbIoc .standard (trbOf .standard code r) = ([1, 2, 3, 4, 5, 6, 7, 8].contains code && r.flags.getLsbD 4) := by
  rw [trbIoc_standard, trbTypeOf_trbOf]
  exact congrArg _ (getLsbD_of_extractLsb' (controlOf_flags _ r) (i := 4) (by decide))
@[simp] theorem trbIdt_trbOf :
    trbIdt .standard (trbOf .standard code r) = ([1, 2, 3, 5].contains code && r.flags.getLsbD 5) := by
  rw [trbIdt_standard, trbTypeOf_trbOf]
  exact congrArg _ (getLsbD_of_extractLsb' (controlOf_flags _ r) (i := 5) (by decide))
@[simp] theorem trbDir_trbOf :
    trbDir .standard (trbOf .standard code r) = ([3, 4].contains code && r.mid.getLsbD 0) := by
  rw [trbDir_standard, trbTypeOf_trbOf]
  exact congrArg _ (getLsbD_of_extractLsb' (controlOf_mid _ r) (i := 0) (by decide))

/-- The length of a record, below 2^17 (R105). -/
theorem trbTransferLength_trbOf :
    (trbTransferLength .standard (trbOf .standard code r)).toNat = (r.status.extractLsb' 0 17).toNat := by
  rw [trbTransferLength_standard, trbOf_status, BitVec.toNat_setWidth]
  have := (r.status.extractLsb' 0 17).isLt
  omega

end

/-! ### Events (R104, R115) -/

/-- The operands of an event: the bits that no row of R104 names for it are free, the rest zero. -/
def eventRec (param : Word64) (status : Word32) (slot : BitVec 8) (endpoint : BitVec 5) (free : Word32) : Rec where
  param := param
  status := status
  cycle := false
  flags := (free &&& 0x27E).extractLsb' 1 9
  mid := 0#3 ++ endpoint
  slot := slot

section

variable (kind : BitVec 6) (param : Word64) (status : Word32) (slot : BitVec 8) (endpoint : BitVec 5) (free : Word32)

theorem eventControl_standard :
    eventControl .standard kind slot endpoint free = controlOf kind (eventRec param status slot endpoint free) := by
  have hfield : Layout.standard.endpoint = { shift := 16, width := 5 } := rfl
  refine BitVec.eq_of_getLsbD_eq fun i hi => ?_
  simp only [eventControl, eventOpaque_standard, Layout.standard_codeOf, typeBits, controlOf, eventRec, hfield,
    BitVec.getLsbD_or, BitVec.getLsbD_and, BitVec.getLsbD_shiftLeft, BitVec.getLsbD_setWidth, putField_getLsbD,
    BitVec.getLsbD_append, BitVec.getLsbD_extractLsb', BitVec.getLsbD_ofBool]
  interval_cases i <;> simp

/-- An event is a record with those operands. -/
theorem event_eq_trbOf :
    { param := param, status := status, control := eventControl .standard kind slot endpoint free } =
      trbOf .standard kind (eventRec param status slot endpoint free) := by
  rw [eventControl_standard kind param status, trbOf, Layout.standard_codeOf]
  rfl

/-- The reserved bits 8:7 of an event are zero (R104). -/
theorem event_reserved :
    (trbOf .standard kind (eventRec param status slot endpoint free)).control.extractLsb' 7 2 = 0 := by
  refine (extractLsb'_of_extractLsb' (controlOf_flags _ _) (i := 6) (by decide)).trans ?_
  refine BitVec.eq_of_getLsbD_eq fun i hi => ?_
  interval_cases i <;> simp [eventRec]

theorem event_endpoint :
    (trbOf .standard kind (eventRec param status slot endpoint free)).control.extractLsb' 16 5 = endpoint :=
  (extractLsb'_of_extractLsb' (controlOf_mid _ _) (i := 0) (by decide)).trans BitVec.extractLsb'_append_eq_right

/-- Beside the endpoint id the bits 23:16 of an event are zero (R104). -/
theorem event_endpoint_reserved :
    (trbOf .standard kind (eventRec param status slot endpoint free)).control.extractLsb' 21 3 = 0 :=
  (extractLsb'_of_extractLsb' (controlOf_mid _ _) (i := 5) (by decide)).trans BitVec.extractLsb'_append_eq_left

theorem event_noEndpoint :
    (trbOf .standard kind (eventRec param status slot 0 free)).control.extractLsb' 16 8 = 0 :=
  (controlOf_mid _ _).trans rfl

end

theorem completionEvent_standard (a : Addr) (free : Word64) :
    completionEvent .standard a free =
      trbOf .standard 33 (eventRec a (free.setWidth 32) (free.extractLsb' 56 8) 0 (free.extractLsb' 32 32)) :=
  event_eq_trbOf _ _ _ _ _ _

/-! ### The consume step (R331) -/

section

variable {s : State} {sel : RingSel} {ring : HcRing} {t : Trb} (hr : hcRing? s.hc sel = some ring)

include hr

theorem hcConsume_of_otherCycle (h : trbCycle t ≠ ring.ccs) : hcConsume sel t s = clearPending sel s := by
  simp only [hcConsume, hr, if_pos h]

theorem hcConsume_link (h : trbCycle t = ring.ccs) (ht : trbTypeOf t = 6) :
    hcConsume sel t s = followLink sel ring t s := by
  simp only [hcConsume, hr, if_neg (not_not.2 h), if_pos ht]

theorem hcConsume_command (h : trbCycle t = ring.ccs) (ht : trbTypeOf t ≠ 6) (hsel : sel = .command) :
    hcConsume sel t s = consumeCommand ring s := by
  subst hsel
  simp only [hcConsume, hr, if_neg (not_not.2 h), if_neg ht]

end

theorem hcConsume_endpoint {s : State} {k : Nat} {e : HcEndpoint} {t : Trb} (he : s.hc.endpoints[k]? = some e)
    (h : trbCycle t = e.ring.ccs) (ht : trbTypeOf t ≠ 6) : hcConsume (.endpoint k) t s = consumeTransfer k e t s := by
  have hr : hcRing? s.hc (.endpoint k) = some e.ring := by simp only [hcRing?, he, Option.map_some]
  simp only [hcConsume, hr, if_neg (not_not.2 h), if_neg ht, he]

/-- The controller executes a record that it consumes from a ring. -/
theorem exec_recordOf_hc {s : State} {sel : RingSel} (hserv : s.serving = .hc sel) (hl : StandardLayout s)
    (code : BitVec 6) (r : Rec) : exec (recordOf code r) s = .next (hcConsume sel (trbOf .standard code r) s) := by
  rw [exec_recordOf, consumeRecord, hserv, hl]

theorem exec_recordOf_held {s : State} {h : HeldTrb} (hserv : s.serving = .held h) (hl : StandardLayout s)
    (code : BitVec 6) (r : Rec) : exec (recordOf code r) s = .next (executeHeld h (trbOf .standard code r) s) := by
  rw [exec_recordOf, consumeRecord, hserv, hl]

/-- Settles O48: the cycle bit, then the type field, then the kind of ring choose what is done. -/
theorem controllerConsumesRecords : Obligations.ControllerConsumesRecords := by
  unfold Obligations.ControllerConsumesRecords
  intro code r sel ring s hserv hl hr
  have hexec := exec_recordOf_hc hserv hl code r
  refine ⟨fun hc => ?skip, fun hc hcode => ?link, fun hc hcode hsel => ?command⟩
  case skip =>
    rw [hcConsume_of_otherCycle hr (by simpa using hc)] at hexec
    exact ⟨_, hexec, fun x => by simp⟩
  case link =>
    rw [hcConsume_link hr (by simpa using hc) (by simpa using hcode)] at hexec
    rw [hexec, followLink, trbToggle_trbOf]
    rfl
  case command =>
    rw [hcConsume_command hr (by simpa using hc) (by simpa using hcode) hsel, consumeCommand, hl,
      completionEvent_standard] at hexec
    refine ⟨_, _, hexec, rfl, trbTypeOf_trbOf _ _, event_reserved _ _ _ _ _ _, event_noEndpoint _ _ _ _ _, rfl⟩

/-! ### The Transfer Event (R115, R332) -/

theorem transferCode_success {r : Nat} {free : Word64} (h : transferCode .standard r free = 1) : r = 0 := by
  by_contra hr
  simp only [transferCode, if_neg hr] at h
  split at h
  · next hother => exact hother.2.1 h
  · exact absurd h (by decide)

theorem transferCode_shortPacket {r : Nat} {free : Word64} (h : transferCode .standard r free = 13) : r ≠ 0 := by
  rintro rfl
  simp only [transferCode, if_true] at h
  split at h
  · next hother => exact hother.2.2 h
  · exact absurd h (by decide)

/-- The status word of a Transfer Event: its completion code above the residual (R115). -/
def transferStatus (residual : Nat) (free : Word64) : Word32 :=
  transferCode .standard residual free ++ BitVec.ofNat 24 residual

theorem transferEventOf_standard (a : Addr) (residual : Nat) (slot : BitVec 8) (endpoint : BitVec 5) (free : Word64) :
    transferEventOf .standard a residual slot endpoint free =
      trbOf .standard 32 (eventRec a (transferStatus residual free) slot endpoint (free.extractLsb' 32 32)) := by
  have hlength : Layout.standard.eventLength = { shift := 0, width := 24 } := rfl
  have hcode : Layout.standard.completionCode = { shift := 24, width := 8 } := rfl
  rw [← event_eq_trbOf, transferEventOf, Trb.mk.injEq, transferStatus]
  refine ⟨rfl, BitVec.eq_of_getLsbD_eq fun i hi => ?_, rfl⟩
  have h64 : i < 64 := by omega
  rw [BitVec.getLsbD_setWidth, BitVec.getLsbD_or, putField_getLsbD, putField_getLsbD, hlength, hcode,
    BitVec.getLsbD_append, BitVec.getLsbD_ofNat, BitVec.getLsbD_ofNat, BitVec.getLsbD_setWidth]
  by_cases h24 : i < 24
  · simp [hi, h24, h64, show ¬24 ≤ i by omega]
  · simp [hi, h24, h64, show 24 ≤ i by omega, show i - 24 < 64 by omega]

theorem transferStatus_residual {residual : Nat} (h : residual < 2 ^ 24) (free : Word64) :
    ((transferStatus residual free).extractLsb' 0 24).toNat = residual := by
  rw [transferStatus, BitVec.extractLsb'_append_eq_right, BitVec.toNat_ofNat, Nat.mod_eq_of_lt h]

theorem transferStatus_code (residual : Nat) (free : Word64) :
    (transferStatus residual free).extractLsb' 24 8 = transferCode .standard residual free :=
  BitVec.extractLsb'_append_eq_left

section

variable (a : Addr) (residual : Nat) (slot : BitVec 8) (endpoint : BitVec 5) (free : Word64)

theorem trbTypeOf_transferEventOf : trbTypeOf (transferEventOf .standard a residual slot endpoint free) = 32 := by
  rw [transferEventOf_standard, trbTypeOf_trbOf]

theorem trbSlotId_transferEventOf : trbSlotId (transferEventOf .standard a residual slot endpoint free) = slot := by
  rw [transferEventOf_standard, trbSlotId_trbOf]
  rfl

theorem transferEventOf_endpoint :
    (transferEventOf .standard a residual slot endpoint free).control.extractLsb' 16 5 = endpoint := by
  rw [transferEventOf_standard, event_endpoint]

theorem transferEventOf_reserved :
    (transferEventOf .standard a residual slot endpoint free).control.extractLsb' 7 2 = 0 := by
  rw [transferEventOf_standard, event_reserved]

theorem transferEventOf_endpoint_reserved :
    (transferEventOf .standard a residual slot endpoint free).control.extractLsb' 21 3 = 0 := by
  rw [transferEventOf_standard, event_endpoint_reserved]

theorem transferEventOf_residual (h : residual < 2 ^ 17) :
    ((transferEventOf .standard a residual slot endpoint free).status.extractLsb' 0 24).toNat = residual := by
  rw [transferEventOf_standard]
  exact transferStatus_residual (by omega) free

variable {a residual slot endpoint free}

/-- Code 1 only if nothing is left (R332). -/
theorem transferEventOf_success
    (h : (transferEventOf .standard a residual slot endpoint free).status.extractLsb' 24 8 = 1) : residual = 0 := by
  rw [transferEventOf_standard] at h
  exact transferCode_success ((transferStatus_code residual free).symm.trans h)

/-- Code 13 only if something is left (R332). -/
theorem transferEventOf_shortPacket
    (h : (transferEventOf .standard a residual slot endpoint free).status.extractLsb' 24 8 = 13) : residual ≠ 0 := by
  rw [transferEventOf_standard] at h
  exact transferCode_shortPacket ((transferStatus_code residual free).symm.trans h)

end

/-! ### The data of a transfer (R332) -/

section

variable (t : Trb) (p : Addr) (s : State)

/-- How many bytes come in: as many as the free value says, of those from `param` on that the controller may write. -/
def received : Nat :=
  upTo (min (trbTransferLength s.cfg.layout t).toNat
    (dataRun s.draw.2 p t.param.toNat (trbTransferLength s.cfg.layout t).toNat)) s.draw.1

theorem transferData_of_brings (h : bringsData s.cfg.layout t = true) :
    transferData t p s = (received t p s, receive t.param.toNat (received t p s) s.draw.2) := by
  simp only [transferData, if_pos h]
  rfl

theorem transferData_of_not_brings (h : bringsData s.cfg.layout t = false) :
    transferData t p s = (upTo (trbTransferLength s.cfg.layout t).toNat s.draw.1, s.draw.2) := by
  simp only [transferData, h, Bool.false_eq_true, if_false]

/-- How many bytes a transfer writes. -/
def writtenBy : Nat := if bringsData s.cfg.layout t then (transferData t p s).1 else 0

theorem writtenBy_le : writtenBy t p s ≤ (transferData t p s).1 := by
  unfold writtenBy
  split
  · exact Nat.le_refl _
  · exact Nat.zero_le _

/-- A transfer writes its bytes from `param` on, each where the controller may. -/
theorem transferData_writes (h : s.mem.wf = true) :
    SameOutside s (transferData t p s).2 t.param.toNat (writtenBy t p s) ∧
      ∀ x, t.param.toNat ≤ x → x < t.param.toNat + writtenBy t p s → dataByte s p x = true := by
  unfold writtenBy
  cases hb : bringsData s.cfg.layout t with
  | true =>
    have hrun : received t p s ≤ dataRun s.draw.2 p t.param.toNat (trbTransferLength s.cfg.layout t).toNat :=
      (upTo_le _ _).trans (Nat.min_le_right _ _)
    rw [transferData_of_brings t p s hb, if_pos rfl]
    exact ⟨(receive_frame _ t.param.toNat s.draw.2 h).2.1,
      fun x hlo hhi => dataByte_of_lt_dataRun s.draw.2 p _ _ x hlo (lt_of_lt_of_le hhi (Nat.add_le_add_left hrun _))⟩
  | false =>
    rw [transferData_of_not_brings t p s hb]
    exact ⟨fun _ _ => rfl, fun x hlo hhi => absurd hhi (by simpa using hlo)⟩

/-- A transfer writes no further than the bytes it counts. -/
theorem transferData_sameOutside (h : s.mem.wf = true) :
    SameOutside s (transferData t p s).2 t.param.toNat (transferData t p s).1 := fun x hx =>
  (transferData_writes t p s h).1 x (hx.imp id ((Nat.add_le_add_left (writtenBy_le t p s) t.param.toNat).trans ·))

theorem transferData_mem_of_not_brings (h : bringsData s.cfg.layout t = false) :
    (transferData t p s).2.mem = s.mem := by
  rw [transferData_of_not_brings t p s h, State.draw_mem]

end

theorem upTo_ofNat {n bound : Nat} (h : n ≤ bound) (hn : n < 2 ^ 64) : upTo bound (BitVec.ofNat 64 n) = n := by
  unfold upTo
  split
  · omega
  · rw [BitVec.toNat_ofNat, Nat.mod_eq_of_lt hn, Nat.mod_eq_of_lt (by omega)]

/-- As many bytes as the controller may write one after the other are counted. -/
theorem le_dataRun (s : State) (p : Addr) :
    ∀ n m a, n ≤ m → (∀ x, a ≤ x → x < a + n → dataByte s p x = true) → n ≤ dataRun s p a m
  | 0, _, _, _, _ => Nat.zero_le _
  | n + 1, m + 1, a, hm, h => by
    rw [dataRun, if_pos (h a (Nat.le_refl a) (by omega))]
    exact Nat.succ_le_succ (le_dataRun s p n m (a + 1) (by omega) fun x hlo hhi => h x (by omega) (by omega))

/-- Every number of bytes that lie where the controller may write is transferred where the free value is that number. -/
theorem transferData_reaches {t : Trb} {p : Addr} {s : State} {n : Nat} (hfree : s.draw.1 = BitVec.ofNat 64 n)
    (hn : n ≤ (trbTransferLength s.cfg.layout t).toNat)
    (h : bringsData s.cfg.layout t = true → ∀ x, t.param.toNat ≤ x → x < t.param.toNat + n → dataByte s p x = true) :
    (transferData t p s).1 = n := by
  have h64 : n < 2 ^ 64 := lt_of_le_of_lt hn (trbTransferLength s.cfg.layout t).isLt
  cases hb : bringsData s.cfg.layout t with
  | true =>
    have hrun := le_dataRun s.draw.2 p n _ t.param.toNat hn (h hb)
    rw [transferData_of_brings t p s hb, received, hfree]
    exact upTo_ofNat (Nat.le_min.2 ⟨hn, hrun⟩) h64
  | false =>
    rw [transferData_of_not_brings t p s hb, hfree]
    exact upTo_ofNat hn h64

/-! ### The execution of a transfer TRB -/

/-- The state with the controller's endpoints as given. -/
def withEndpoints (moved : List HcEndpoint) (s : State) : State := { s with hc := { s.hc with endpoints := moved } }

theorem executeTransfer_congr {slot : BitVec 8} {endpoint : BitVec 5} {a : Addr} {t : Trb} {move move' : State → State}
    {s : State} (h : move (transferData t a s).2 = move' (transferData t a s).2) :
    executeTransfer slot endpoint a t move s = executeTransfer slot endpoint a t move' s := by
  unfold executeTransfer
  dsimp only
  rw [h]

theorem transferData_hc (t : Trb) (p : Addr) {s : State} (h : s.mem.wf = true) : (transferData t p s).2.hc = s.hc := by
  rw [(transferData_frame t p s h).2.2.2]

theorem moveHcRing_endpoint {s : State} {k : Nat} {e : HcEndpoint} (he : s.hc.endpoints[k]? = some e) (ring : HcRing) :
    moveHcRing (.endpoint k) ring s = withEndpoints (s.hc.endpoints.set k { e with ring := ring }) s := by
  have hset : (s.hc.endpoints.modify k fun x => { x with ring := ring }) =
      s.hc.endpoints.set k { e with ring := ring } := by
    rw [List.modify_eq_set_getElem?, he]
    rfl
  rw [← hset]
  rfl

/-- The endpoints the controller knows once the ring a held record came from has moved past its slot. -/
def endpointsPast (h : HeldTrb) (endpoints : List HcEndpoint) : List HcEndpoint :=
  match h.owner with
  | none => endpoints
  | some k => endpoints.modify k fun e => { e with ring := { p := h.addr + 16, ccs := e.ring.ccs } }

theorem passHeld_eq (h : HeldTrb) (s : State) : passHeld h s = withEndpoints (endpointsPast h s.hc.endpoints) s := by
  unfold passHeld endpointsPast
  cases h.owner with
  | none => rfl
  | some k =>
    dsimp only [hcRing?]
    rw [List.modify_eq_set_getElem?]
    cases he : s.hc.endpoints[k]? with
    | none => rfl
    | some e => exact moveHcRing_endpoint he _

/-- Whichever way the record came to be executed, the ring's pointer moves past its slot. -/
theorem exec_transfer {s : State} {code : BitVec 6} {r : Rec} {a : Addr} {slot : BitVec 8} {endpoint : BitVec 5}
    {moved : List HcEndpoint} (h : ExecutesTransfer s r.cycle a slot endpoint moved) (hl : StandardLayout s)
    (hcode : code ≠ 6) (hm : s.mem.wf = true) :
    exec (recordOf code r) s =
      .next (executeTransfer slot endpoint a (trbOf .standard code r) (withEndpoints moved) s) := by
  rcases h with ⟨k, e, hserv, he, hcycle, rfl, rfl, rfl, rfl⟩ | ⟨h, hserv, rfl, rfl, rfl, rfl⟩
  · rw [exec_recordOf_hc hserv hl, hcConsume_endpoint he (by simpa using hcycle) (by simpa using hcode),
      consumeTransfer]
    have hhc := transferData_hc (trbOf .standard code r) e.ring.p hm
    refine congrArg Host.Outcome.next (executeTransfer_congr ?_)
    rw [moveHcRing_endpoint (by rw [hhc]; exact he), hhc]
  · rw [exec_recordOf_held hserv hl, executeHeld]
    refine congrArg Host.Outcome.next (executeTransfer_congr ?_)
    have hhc := transferData_hc (trbOf .standard code r) h.addr hm
    exact (passHeld_eq h _).trans (congrArg (fun hc : HcHidden => withEndpoints (endpointsPast h hc.endpoints) _) hhc)

/-- What is left of a record's length after its transfer. -/
def residual (t : Trb) (a : Addr) (s : State) : Nat :=
  (trbTransferLength s.cfg.layout t).toNat - (transferData t a s).1

section

variable {slot : BitVec 8} {endpoint : BitVec 5} {a : Addr} {t : Trb} {moved : List HcEndpoint} {s : State}
  (hm : s.mem.wf = true)

include hm

/-- A record that reports moves data, passes its slot and enqueues its event; free values are taken. -/
theorem executeTransfer_of_reports (h : reports s.cfg.layout t (residual t a s) = true) :
    ∃ free supply drawn, executeTransfer slot endpoint a t (withEndpoints moved) s = { s with
      mem := (transferData t a s).2.mem
      hc :=
        { s.hc with
          endpoints := moved
          unposted := s.hc.unposted ++ [transferEventOf s.cfg.layout a (residual t a s) slot endpoint free] }
      supply := supply
      drawn := drawn } := by
  obtain ⟨-, -, -, hframe⟩ := transferData_frame t a s hm
  unfold residual at h ⊢
  unfold executeTransfer
  generalize transferData t a s = d at h hframe ⊢
  obtain ⟨n, u⟩ := d
  dsimp only at h hframe ⊢
  rw [if_pos h, hframe]
  exact ⟨_, _, _, rfl⟩

/-- A record that does not report moves data and passes its slot. -/
theorem executeTransfer_of_not_reports (h : reports s.cfg.layout t (residual t a s) = false) :
    ∃ supply drawn, executeTransfer slot endpoint a t (withEndpoints moved) s = { s with
      mem := (transferData t a s).2.mem
      hc := { s.hc with endpoints := moved }
      supply := supply
      drawn := drawn } := by
  obtain ⟨-, -, -, hframe⟩ := transferData_frame t a s hm
  unfold residual at h
  unfold executeTransfer
  generalize transferData t a s = d at h hframe ⊢
  obtain ⟨n, u⟩ := d
  dsimp only at h hframe ⊢
  rw [h, if_neg Bool.false_ne_true, hframe]
  exact ⟨_, _, rfl⟩

end

/-! ### Normal records -/

theorem residual_lt (r : Rec) (n : Nat) : (r.status.extractLsb' 0 17).toNat - n < 2 ^ 17 :=
  lt_of_le_of_lt (Nat.sub_le _ n) (r.status.extractLsb' 0 17).isLt

section

variable {s : State} (hl : StandardLayout s) (code : BitVec 6) (r : Rec) (a : Addr)

include hl

theorem length_trbOf :
    (trbTransferLength s.cfg.layout (trbOf .standard code r)).toNat = (r.status.extractLsb' 0 17).toNat := by
  rw [hl, trbTransferLength_trbOf]

/-- No more is transferred than the record's length. -/
theorem transferred_le (hm : s.mem.wf = true) :
    (transferData (trbOf .standard code r) a s).1 ≤ (r.status.extractLsb' 0 17).toNat :=
  (transferData_frame _ a s hm).1.trans (length_trbOf hl code r).le

theorem residual_trbOf : residual (trbOf .standard code r) a s =
    (r.status.extractLsb' 0 17).toNat - (transferData (trbOf .standard code r) a s).1 :=
  congrArg (· - _) (length_trbOf hl code r)

/-- A Normal record brings data in unless `param` holds it (R104). -/
theorem bringsData_normal : bringsData s.cfg.layout (trbOf .standard 1 r) = !r.flags.getLsbD 5 := by
  rw [hl, bringsData, trbIdt_trbOf, trbTypeOf_trbOf]
  simp

theorem reports_normal (n : Nat) : reports s.cfg.layout (trbOf .standard 1 r) n = true := by
  rw [hl, reports, trbTypeOf_trbOf]
  rfl

theorem writtenBy_normal : writtenBy (trbOf .standard 1 r) a s =
    if r.flags.getLsbD 5 then 0 else (transferData (trbOf .standard 1 r) a s).1 := by
  rw [writtenBy, bringsData_normal hl]
  cases r.flags.getLsbD 5 <;> rfl

end

/-- Settles O49: a Normal record always reports, and brings data in unless `param` holds it; the free value drawn first
is the number of bytes. -/
theorem normalRecordTransfersData : Obligations.NormalRecordTransfersData := by
  unfold Obligations.NormalRecordTransfersData
  intro a slot endpoint moved r s h hl hm len written ends
  have hends (u : State) (hlu : StandardLayout u) (hu : ExecutesTransfer u r.cycle a slot endpoint moved)
      (hmu : u.mem.wf = true) :
      ∃ t, exec (.normal r) u = .next t ∧ ends (transferData (trbOf .standard 1 r) a u).1 u t := by
    have hexec : exec (.normal r) u = _ := exec_transfer (code := 1) hu hlu (by decide) hmu
    obtain ⟨free, supply, drawn, ht⟩ := executeTransfer_of_reports (slot := slot) (endpoint := endpoint)
      (moved := moved) hmu (reports_normal hlu r (residual (trbOf .standard 1 r) a u))
    rw [ht, hlu, residual_trbOf hlu] at hexec
    obtain ⟨houtside, hbytes⟩ := transferData_writes (trbOf .standard 1 r) a u hmu
    rw [writtenBy_normal hlu] at houtside hbytes
    have hle := transferred_le hlu 1 r a hmu
    refine ⟨_, hexec, houtside, (transferData_frame _ a u hmu).2.1, hbytes, _, rfl, trbTypeOf_transferEventOf _ _ _ _ _,
      trbSlotId_transferEventOf _ _ _ _ _, transferEventOf_endpoint _ _ _ _ _, transferEventOf_reserved _ _ _ _ _,
      transferEventOf_endpoint_reserved _ _ _ _ _, transferEventOf_residual _ _ _ _ _ (residual_lt r _),
      fun hcode => ?success, fun hcode => ?short, rfl⟩
    case success => exact Nat.le_antisymm hle (Nat.sub_eq_zero_iff_le.1 (transferEventOf_success hcode))
    case short => exact Nat.lt_of_sub_ne_zero (transferEventOf_shortPacket hcode)
  refine ⟨?some, fun n hn hbytes => ?every⟩
  case some =>
    obtain ⟨t, hexec, ht⟩ := hends s hl h hm
    exact ⟨t, _, hexec, transferred_le hl 1 r a hm, ht⟩
  case every =>
    obtain ⟨t, hexec, ht⟩ := hends { s with supply := [BitVec.ofNat 64 n] } hl h hm
    have hreach : (transferData (trbOf .standard 1 r) a { s with supply := [BitVec.ofNat 64 n] }).1 = n := by
      refine transferData_reaches rfl (hn.trans (length_trbOf hl 1 r).ge) fun hb x hlo hhi => hbytes x hlo ?_
      have hpointer : r.flags.getLsbD 5 = false := by
        rw [← Bool.not_eq_true', ← bringsData_normal hl r]
        exact hb
      have hwritten : written n = n := by simp only [written, hpointer, Bool.false_eq_true, if_false]
      rw [hwritten]
      exact hhi
    rw [hreach] at ht
    exact ⟨_, t, hexec, ht⟩

/-! ### Other records on an endpoint's ring -/

section

variable {s : State} (hl : StandardLayout s) {code : BitVec 6} (hnormal : code ≠ 1) (r : Rec)

include hl hnormal

/-- Of the other records only a Data Stage with `DIR` = 1 brings data in, unless `param` holds it (R104; log 10). -/
theorem bringsData_other : bringsData s.cfg.layout (trbOf .standard code r) = true ↔
    code = 3 ∧ r.mid.getLsbD 0 = true ∧ r.flags.getLsbD 5 = false := by
  rw [hl, bringsData, trbIdt_trbOf, trbDir_trbOf, trbTypeOf_trbOf, Layout.standard_kindOf]
  by_cases h3 : code = 3
  · simp [h3]
  · simp only [decide_eq_false hnormal, h3, decide_false, Bool.false_or, Bool.false_and, Bool.false_eq_true, false_and]

/-- They report with IOC, or, a Data Stage or Isoch, with ISP when they complete short (R104, R316). -/
theorem reports_other (n : Nat) : reports s.cfg.layout (trbOf .standard code r) n = true ↔
    (1 ≤ code.toNat ∧ code.toNat ≤ 8 ∧ r.flags.getLsbD 4 = true) ∨
      ((code = 3 ∨ code = 5) ∧ r.flags.getLsbD 1 = true ∧ n ≠ 0) := by
  have htransfer : [1, 2, 3, 4, 5, 6, 7, 8].contains code = true ↔ 1 ≤ code.toNat ∧ code.toNat ≤ 8 := by
    revert code
    decide
  have hshort : [1, 3, 5].contains code = true ↔ code = 3 ∨ code = 5 := by
    revert code
    decide
  rw [hl, reports, trbIoc_trbOf, trbIsp_trbOf, trbTypeOf_trbOf, decide_eq_false hnormal, Bool.false_or, Bool.or_eq_true,
    Bool.and_eq_true, Bool.and_eq_true, Bool.and_eq_true, htransfer, hshort, decide_eq_true_eq, and_assoc, and_assoc]

end

/-- Settles O50: what the record brings in and whether it reports is read off its type and its bits. -/
theorem otherTransferRecordsComplete : Obligations.OtherTransferRecordsComplete := by
  unfold Obligations.OtherTransferRecordsComplete
  intro a slot endpoint moved code r s h hl hlink hnormal hm len
  have hexec := exec_transfer h hl hlink hm
  have hle := transferred_le hl code r a hm
  have houtside := transferData_sameOutside (trbOf .standard code r) a s hm
  have hdata := (transferData_frame (trbOf .standard code r) a s hm).2.2.1
  have hkept (hnot : ¬(code = 3 ∧ r.mid.getLsbD 0 = true ∧ r.flags.getLsbD 5 = false)) :
      (transferData (trbOf .standard code r) a s).2.mem = s.mem := by
    rw [← bringsData_other hl hnormal r, Bool.not_eq_true] at hnot
    exact transferData_mem_of_not_brings _ a s hnot
  have hreports := reports_other hl hnormal r (residual (trbOf .standard code r) a s)
  rw [residual_trbOf hl, Nat.sub_ne_zero_iff_lt, ← residual_trbOf hl] at hreports
  by_cases hreport : reports s.cfg.layout (trbOf .standard code r) (residual (trbOf .standard code r) a s) = true
  · obtain ⟨free, supply, drawn, ht⟩ := executeTransfer_of_reports (slot := slot) (endpoint := endpoint)
      (moved := moved) hm hreport
    rw [ht, hl, residual_trbOf hl] at hexec
    refine ⟨_, _, hexec, hle, houtside, hkept, hdata, ?event, rfl⟩
    rw [if_pos (hreports.1 hreport)]
    exact ⟨_, rfl, rfl, trbTypeOf_transferEventOf _ _ _ _ _, trbSlotId_transferEventOf _ _ _ _ _,
      transferEventOf_endpoint _ _ _ _ _, transferEventOf_residual _ _ _ _ _ (residual_lt r _)⟩
  · obtain ⟨supply, drawn, ht⟩ := executeTransfer_of_not_reports (slot := slot) (endpoint := endpoint) (moved := moved)
      hm (Bool.eq_false_iff.2 hreport)
    rw [ht] at hexec
    refine ⟨_, _, hexec, hle, houtside, hkept, hdata, ?noEvent, rfl⟩
    rw [if_neg (mt hreports.2 hreport)]

end Sys2Proof.Machine
end

section
/-! SUPPORT. Words of DMA-visible memory under the accessor operations (R80, R141 to R146): spans of a 64-bit word, words of
`n` bytes, and what each operation answers, stores and accesses. -/

namespace Sys2Proof.Machine

open Sys2Proof

/-! ### Spans of a 64-bit word (R143, R144) -/

/-- `read_bits` answers the span, shifted down (R143). -/
theorem readSpan_eq_ofNat (shift width : Nat) (x : Word64) :
    readSpan shift width x = BitVec.ofNat 64 (x.toNat / 2 ^ shift % 2 ^ width) := by
  refine (readField_eq { shift := shift, width := width } x).trans (BitVec.eq_of_toNat_eq ?_)
  rw [BitVec.toNat_setWidth, BitVec.extractLsb'_toNat, BitVec.toNat_ofNat, Nat.shiftRight_eq_div_pow]

theorem readSpan_getLsbD (shift width : Nat) (x : Word64) (i : Nat) :
    (readSpan shift width x).getLsbD i = (x.getLsbD (shift + i) && decide (i < 64 ∧ i < width)) := by
  rw [readSpan, BitVec.getLsbD_and, BitVec.getLsbD_ushiftRight, maskOf_getLsbD]

theorem toNat_and_maskOf (v : Word64) (k : Nat) : (v &&& maskOf k).toNat = v.toNat % 2 ^ k := by
  have hspan : v &&& maskOf k = BitVec.ofNat 64 (v.toNat % 2 ^ k) := by
    simpa [readSpan] using readSpan_eq_ofNat 0 k v
  rw [hspan, BitVec.toNat_ofNat, Nat.mod_eq_of_lt (lt_of_le_of_lt (Nat.mod_le _ _) v.isLt)]

section

variable {bits shift width : Nat} (hb : shift + width ≤ bits)

include hb

/-- The mask of a span that lies in the word. -/
theorem spanMask_getLsbD {i : Nat} (hi : i < 64) :
    ((maskOf width <<< shift) &&& maskOf bits).getLsbD i = decide (shift ≤ i ∧ i < shift + width) := by
  rw [BitVec.getLsbD_and, BitVec.getLsbD_shiftLeft, maskOf_getLsbD, maskOf_getLsbD, decide_eq_true hi, Bool.true_and,
    ← decide_not, ← Bool.decide_and, ← Bool.decide_and, decide_eq_decide]
  omega

/-- `write_bits` replaces the span and keeps every other bit (R144). -/
theorem writeSpan_getLsbD_word (old v : Word64) {i : Nat} (hi : i < 64) :
    (writeSpan bits shift width old v).getLsbD i =
      if shift ≤ i ∧ i < shift + width then v.getLsbD (i - shift) else old.getLsbD i := by
  rw [writeSpan, BitVec.getLsbD_or, BitVec.getLsbD_and, BitVec.getLsbD_not, spanMask_getLsbD hb hi,
    BitVec.getLsbD_and, spanMask_getLsbD hb hi, BitVec.getLsbD_shiftLeft, BitVec.getLsbD_and, maskOf_getLsbD]
  by_cases hin : shift ≤ i ∧ i < shift + width
  · have hge : ¬i < shift := by omega
    have hmask : i - shift < 64 ∧ i - shift < width := by omega
    simp [hi, hin, hge, hmask]
  · simp [hi, hin]

theorem writeSpan_getLsbD_outside (old v : Word64) {i : Nat} (hi : i < shift ∨ shift + width ≤ i) :
    (writeSpan bits shift width old v).getLsbD i = old.getLsbD i := by
  by_cases h64 : i < 64
  · rw [writeSpan_getLsbD_word hb old v h64, if_neg (by omega)]
  · rw [BitVec.getLsbD_of_ge _ i (by omega), BitVec.getLsbD_of_ge _ i (by omega)]

/-- The span just written reads as the value mod its width (R146). -/
theorem readSpan_writeSpan (hbits : bits ≤ 64) (old v : Word64) :
    readSpan shift width (writeSpan bits shift width old v) = BitVec.ofNat 64 (v.toNat % 2 ^ width) := by
  have hlow : readSpan 0 width v = BitVec.ofNat 64 (v.toNat % 2 ^ width) := by
    rw [readSpan_eq_ofNat, pow_zero, Nat.div_one]
  rw [← hlow]
  refine BitVec.eq_of_getLsbD_eq fun i hi => ?_
  rw [readSpan_getLsbD, readSpan_getLsbD, Nat.zero_add]
  by_cases hin : i < width
  · rw [writeSpan_getLsbD_word hb old v (by omega), if_pos (by omega), Nat.add_sub_cancel_left]
  · simp [hin]

/-- Writing back the span that was read changes nothing (R146). -/
theorem writeSpan_readSpan (old : Word64) : writeSpan bits shift width old (readSpan shift width old) = old := by
  refine BitVec.eq_of_getLsbD_eq fun i hi => ?_
  rw [writeSpan_getLsbD_word hb old _ hi, readSpan_getLsbD]
  split
  case isTrue hin =>
    have hbit : shift + (i - shift) = i := by omega
    have hmask : i - shift < 64 ∧ i - shift < width := by omega
    rw [hbit, decide_eq_true hmask, Bool.and_true]
  case isFalse => rfl

/-- Replacing a span of a word of `bits` bits gives a word of `bits` bits. -/
theorem writeSpan_and_maskOf {old : Word64} (hold : old &&& maskOf bits = old) (v : Word64) :
    writeSpan bits shift width old v &&& maskOf bits = writeSpan bits shift width old v := by
  refine BitVec.eq_of_getLsbD_eq fun i hi => ?_
  have hbit := congrArg (·.getLsbD i) hold
  simp only [BitVec.getLsbD_and, maskOf_getLsbD] at hbit
  rw [BitVec.getLsbD_and, maskOf_getLsbD, writeSpan_getLsbD_word hb old v hi]
  split
  case isTrue hin =>
    have hmask : i < 64 ∧ i < bits := by omega
    rw [decide_eq_true hmask, Bool.and_true]
  case isFalse => exact hbit

end

/-! ### Words of `n` bytes (R74) -/

/-- The bytes of a word give the word back, cut to their width. -/
theorem wordOf_bytesOf (n : Nat) (v : Word64) : wordOf (bytesOf n v) = v &&& maskOf (8 * n) := by
  refine BitVec.eq_of_getLsbD_eq fun i hi => ?_
  rw [wordOf_getLsbD, BitVec.getLsbD_and, maskOf_getLsbD, decide_eq_true hi, Bool.true_and]
  by_cases hin : i < 8 * n
  · have hbit : 8 * (i / 8) + i % 8 = i := Nat.div_add_mod i 8
    rw [bytesOf_getD n v (i / 8) (by omega), BitVec.getLsbD_extractLsb', hbit,
      decide_eq_true (Nat.mod_lt i (by decide)), decide_eq_true (show i < 64 ∧ i < 8 * n from ⟨hi, hin⟩),
      Bool.true_and, Bool.and_true]
  · have hout : (bytesOf n v).getD (i / 8) 0 = 0 := List.getD_eq_default _ _ (by rw [bytesOf_length]; omega)
    rw [hout, decide_eq_false (show ¬(i < 64 ∧ i < 8 * n) from fun h => hin h.2), Bool.and_false]
    exact BitVec.getLsbD_zero

theorem Memory.readWord_writeWord {m : Memory} (h : m.wf = true) (a : Addr) (n : Nat) (v : Word64) :
    (m.writeWord a n v).readWord a n = v &&& maskOf (8 * n) :=
  (Memory.readWord_writeWord_same h a n v).trans (wordOf_bytesOf n v)

/-- A word of `n` bytes has no other bits. -/
theorem Memory.readWord_and_maskOf {n : Nat} (hn : n ≤ 8) (m : Memory) (a : Addr) :
    m.readWord a n &&& maskOf (8 * n) = m.readWord a n := by
  rw [← wordOf_bytesOf, Memory.readWord, bytesOf_wordOf (by simp) hn]

/-- The word that `write_bits` leaves (R144). -/
theorem Memory.readWord_writeSpan {m : Memory} (h : m.wf = true) {n shift width : Nat} (hn : n ≤ 8)
    (hb : shift + width ≤ 8 * n) (a : Addr) (v : Word64) :
    (m.writeWord a n (writeSpan (8 * n) shift width (m.readWord a n) v)).readWord a n =
      writeSpan (8 * n) shift width (m.readWord a n) v :=
  (Memory.readWord_writeWord h a n _).trans (writeSpan_and_maskOf hb (Memory.readWord_and_maskOf hn m a) v)

/-! ### Words that resolve -/

/-- The word of `n` bytes at `a` may be accessed (R77, R78), and lies in the 64-bit space (R293). -/
structure MemoryWord (s : State) (a : Addr) (n : Nat) : Prop where
  resolves : ∀ u, resolve s u (.dma a n) = .ok (.dma a)
  bytes : n ≤ 8
  fits : a.toNat + n ≤ 2 ^ 64

/-- A word that resolves has an access's width and lies in a live block. -/
theorem covers_of_resolve {s : State} {u : Use} {a : Addr} {n : Nat} {l : Loc}
    (h : resolve s u (.dma a n) = .ok l) : AccessWidth n ∧ ∃ b ∈ s.allocs, b.covers a n := by
  have hn : AccessWidth n := by
    by_contra hn
    cases (resolve_dma_of_badWidth hn).symm.trans h
  have ha : a.toNat % n = 0 := by
    by_contra ha
    cases (resolve_dma_of_misaligned hn ha).symm.trans h
  refine ⟨hn, ?_⟩
  by_contra! hout
  cases (resolve_dma_of_outside hn ha hout).symm.trans h

theorem memoryWord_of_resolve {s : State} {a : Addr} {n : Nat} (hinv : s.Inv)
    (h : ∀ u, resolve s u (.dma a n) = .ok (.dma a)) : MemoryWord s a n := by
  obtain ⟨-, -, hok, -, -, -⟩ := hinv
  obtain ⟨hn, b, hb, -, hhi⟩ := covers_of_resolve (h { reads := true, writes := true })
  obtain ⟨hfits, -⟩ := hok b hb
  exact ⟨h, by omega, by omega⟩

/-- What resolves depends on the live blocks only. -/
theorem MemoryWord.of_allocs {s t : State} {a : Addr} {n : Nat} (h : MemoryWord s a n) (ht : t.allocs = s.allocs) :
    MemoryWord t a n := by
  refine ⟨fun u => ?_, h.bytes, h.fits⟩
  rw [← h.resolves u, resolve, resolve, ht]

/-! ### The accesses of a word, with their record (R79, R80) -/

section

variable {s : State} {a : Addr} {n : Nat} (h : MemoryWord s a n)

include h

/-- A read: one access where 8-byte accesses are whole. -/
theorem comes_readWord_traced (k : Word64 → Prog) :
    ∃ tr, Comes (readWord (.dma a) n k) s (k (s.mem.readWord a n)) { s with trace := tr } ∧
      (s.cfg.split64 = false → tr.map Access.seen = (s.agent, .read, .dma a, n) :: s.trace.map Access.seen) := by
  cases hsplit : s.cfg.split64 with
  | false => exact ⟨_, comes_readWord_once (fun _ => hsplit) a k, fun _ => rfl⟩
  | true =>
    obtain ⟨tr, hread⟩ := comes_readWord_dma (a := a) (n := n) (fun hn => hn ▸ h.fits) k s
    exact ⟨tr, hread, nofun⟩

/-- A write likewise. -/
theorem comes_writeWord_traced (v : Word64) (k : Prog) :
    ∃ tr, Comes (writeWord (.dma a) n v k) s k { s with mem := s.mem.writeWord a n v, trace := tr } ∧
      (s.cfg.split64 = false → tr.map Access.seen = (s.agent, .write, .dma a, n) :: s.trace.map Access.seen) := by
  cases hsplit : s.cfg.split64 with
  | false => exact ⟨_, comes_writeWord_once (fun _ => hsplit) a v k, fun _ => rfl⟩
  | true =>
    obtain ⟨tr, hwrite⟩ := comes_writeWord_dma (a := a) (n := n) (fun hn => hn ▸ h.fits) v k s
    exact ⟨tr, hwrite, nofun⟩

/-- `read_bits`: one read (R143). -/
theorem comes_readBitsAt_traced {shift width : Nat} (hb : shift + width ≤ 8 * n) (k : Word64 → Prog) :
    ∃ tr, Comes (readBitsAt (.dma a) n shift width k) s (k (readSpan shift width (s.mem.readWord a n)))
        { s with trace := tr } ∧
      (s.cfg.split64 = false → tr.map Access.seen = (s.agent, .read, .dma a, n) :: s.trace.map Access.seen) := by
  rw [readBitsAt, if_neg (Nat.not_lt.2 hb)]
  exact comes_readWord_traced h _

/-- `write_bits`: one read, then one write, also when nothing changes (R80, R144). -/
theorem comes_writeBitsAt_traced {shift width : Nat} (hb : shift + width ≤ 8 * n) (v : Word64) (k : Prog) :
    ∃ tr, Comes (writeBitsAt (.dma a) n shift width v k) s k
        { s with
          mem := s.mem.writeWord a n (writeSpan (8 * n) shift width (s.mem.readWord a n) v)
          trace := tr } ∧
      (s.cfg.split64 = false →
        tr.map Access.seen =
          (s.agent, .write, .dma a, n) :: (s.agent, .read, .dma a, n) :: s.trace.map Access.seen) := by
  rw [writeBitsAt, if_neg (Nat.not_lt.2 hb)]
  obtain ⟨tr, hread, htrace⟩ := comes_readWord_traced h fun old =>
    writeWord (.dma a) n (writeSpan (8 * n) shift width old v) k
  obtain ⟨tr', hwrite, htrace'⟩ := comes_writeWord_traced (s := { s with trace := tr }) (h.of_allocs rfl)
    (writeSpan (8 * n) shift width (s.mem.readWord a n) v) k
  refine ⟨tr', hread.trans hwrite, fun hsplit => (htrace' hsplit).trans ?_⟩
  rw [htrace hsplit]
  rfl

/-! ### The accessor operations on a word of memory -/

variable (hs : Unmarked s)

include hs

/-- `read()` (R141). -/
theorem exec_read_dma :
    ∃ t, exec (.read (.dma a n)) s = .next t ∧ Answered s t (.word (s.mem.readWord a n)) ∧
      (s.cfg.split64 = false → t.trace.map Access.seen = (s.agent, .read, .dma a, n) :: s.trace.map Access.seen) := by
  obtain ⟨tr, hread, htrace⟩ := comes_readWord_traced h fun v => .ret (.word v)
  exact ⟨_, runOp_withWord_ret hs (h.resolves _) (fun l => readWord l n fun v => .ret (.word v)) hread _, rfl, htrace⟩

/-- `read_bits` (R143). -/
theorem exec_readBits_dma {shift width : Nat} (hb : shift + width ≤ 8 * n) :
    ∃ t, exec (.readBits (.dma a n) shift width) s = .next t ∧
      Answered s t (.word (readSpan shift width (s.mem.readWord a n))) ∧
      (s.cfg.split64 = false → t.trace.map Access.seen = (s.agent, .read, .dma a, n) :: s.trace.map Access.seen) := by
  obtain ⟨tr, hread, htrace⟩ := comes_readBitsAt_traced h hb fun v => .ret (.word v)
  exact ⟨_, runOp_withWord_ret hs (h.resolves _) (fun l => readBitsAt l n shift width fun v => .ret (.word v)) hread _,
    rfl, htrace⟩

/-- `write` (R142). -/
theorem exec_write_dma (v : Word64) :
    ∃ tr, exec (.write (.dma a n) v) s =
        .next (State.finish { s with mem := s.mem.writeWord a n v, trace := tr } .unit) ∧
      (s.cfg.split64 = false → tr.map Access.seen = (s.agent, .write, .dma a, n) :: s.trace.map Access.seen) := by
  obtain ⟨tr, hwrite, htrace⟩ := comes_writeWord_traced h v (.ret .unit)
  exact ⟨tr, runOp_withWord_ret hs (h.resolves _) (fun l => writeWord l n v (.ret .unit)) hwrite _, htrace⟩

/-- `write_bits` (R144). -/
theorem exec_writeBits_dma {shift width : Nat} (hb : shift + width ≤ 8 * n) (v : Word64) :
    ∃ tr, exec (.writeBits (.dma a n) shift width v) s =
        .next (State.finish
          { s with
            mem := s.mem.writeWord a n (writeSpan (8 * n) shift width (s.mem.readWord a n) v)
            trace := tr } .unit) ∧
      (s.cfg.split64 = false →
        tr.map Access.seen =
          (s.agent, .write, .dma a, n) :: (s.agent, .read, .dma a, n) :: s.trace.map Access.seen) := by
  obtain ⟨tr, hwrite, htrace⟩ := comes_writeBitsAt_traced h hb v (.ret .unit)
  exact ⟨tr, runOp_withWord_ret hs (h.resolves _) (fun l => writeBitsAt l n shift width v (.ret .unit)) hwrite _, htrace⟩

end

theorem Answered.result {s t : State} {r : Result} (h : Answered s t r) : t.ctx.result = r := by
  unfold Answered at h
  have hctx : t.ctx = (s.finish r).ctx := by rw [h]; rfl
  rw [hctx, State.finish_ctx]

/-- An operation that leaves the word `v` at `a`, and no other word, stores to its bytes only. -/
theorem stored_writeWord {s : State} (hmem : s.mem.wf = true) (a : Addr) (n : Nat) (v : Word64) (tr : List Access)
    (r : Result) :
    Stored s (State.finish { s with mem := s.mem.writeWord a n v, trace := tr } r) r a.toNat n := by
  refine ⟨fun x hx => ?_, rfl⟩
  rw [State.finish_mem, Memory.read_writeWord hmem, if_neg (by omega)]

/-- Settles O17: each operation resolves its word, and is one access of it, `write_bits` a read and a write. -/
theorem bitfieldOperationsOnMemory : Obligations.BitfieldOperationsOnMemory := by
  unfold Obligations.BitfieldOperationsOnMemory
  intro a n s hs hinv hres
  have h := memoryWord_of_resolve hinv hres
  obtain ⟨hmem, -⟩ := hinv
  refine ⟨exec_read_dma h hs, fun v => ?write, fun shift width hb => ?readBits, fun shift width v hb => ?writeBits⟩
  case write =>
    obtain ⟨tr, hexec, htrace⟩ := exec_write_dma h hs v
    refine ⟨_, hexec, stored_writeWord hmem a n v tr .unit, ?_, htrace⟩
    rw [State.finish_mem, Memory.readWord_writeWord hmem, toNat_and_maskOf]
  case readBits =>
    have hread := exec_readBits_dma h hs hb
    rwa [readSpan_eq_ofNat] at hread
  case writeBits =>
    obtain ⟨tr, hexec, htrace⟩ := exec_writeBits_dma h hs hb v
    refine ⟨_, hexec, stored_writeWord hmem a n _ tr .unit, fun i hi => ?_, htrace⟩
    rw [State.finish_mem, Memory.readWord_writeSpan hmem h.bytes hb a, writeSpan_getLsbD_word hb _ v hi]

/-- Settles O18: the word that `write_bits` leaves is the old one with its span replaced. -/
theorem writeBitsThenReadBits : Obligations.WriteBitsThenReadBits := by
  unfold Obligations.WriteBitsThenReadBits
  intro a n shift width v s hs hinv hres hb
  have h := memoryWord_of_resolve hinv hres
  obtain ⟨hmem, -⟩ := hinv
  have hbits : 8 * n ≤ 64 := Nat.mul_le_mul_left 8 h.bytes
  have hleft := fun v => Memory.readWord_writeSpan hmem h.bytes hb a v
  refine ⟨?writeThenRead, ?writeBack⟩
  case writeThenRead =>
    obtain ⟨tr, hwrite, -⟩ := exec_writeBits_dma h hs hb v
    obtain ⟨t, hread, hanswer, -⟩ := exec_readBits_dma
      (s := State.finish { s with mem := s.mem.writeWord a n _, trace := tr } .unit) (h.of_allocs rfl) hs hb
    refine ⟨_, t, hwrite, hread, ?answer, fun i hi => ?outside⟩
    case answer =>
      rw [hanswer.result, State.finish_mem, hleft, readSpan_writeSpan hb hbits]
    case outside => rw [State.finish_mem, hleft, writeSpan_getLsbD_outside hb _ v hi]
  case writeBack =>
    obtain ⟨tr, hwrite, -⟩ := exec_writeBits_dma h hs hb (readSpan shift width (s.mem.readWord a n))
    refine ⟨_, hwrite, ?_⟩
    rw [State.finish_mem, hleft, writeSpan_readSpan hb]

end Sys2Proof.Machine
end

section
/-! SUPPORT. The TRB constructors (R106, R107, R109 to R114, R152 to R159): each makes a record of a type of its own,
whose operands are named here, so that what the accessors read of it is what they read of any record. -/

namespace Sys2Proof.Machine

open Sys2Proof

/-! ### Records by their type number and operands -/

/-- The type number and the operands are read back from a record's words. -/
theorem trbOf_standard_injective {k k' : BitVec 6} {r r' : Rec} (h : trbOf .standard k r = trbOf .standard k' r') :
    k = k' ∧ r = r' := by
  have hk := congrArg trbTypeOf h
  have hr := congrArg (fun t => recOf t.param t.status t.control) h
  exact ⟨by simpa using hk, by simpa [trbOf] using hr⟩

/-- Two fields side by side, as one number. -/
theorem toNat_append_eq_add {m n : Nat} (x : BitVec m) (y : BitVec n) :
    (x ++ y).toNat = x.toNat * 2 ^ n + y.toNat := by
  rw [BitVec.toNat_append, ← Nat.shiftLeft_add_eq_or_of_lt y.isLt, Nat.shiftLeft_eq]

/-- A control word as one number (R102). -/
theorem controlOf_eq_ofNat (code : BitVec 6) (r : Rec) :
    controlOf code r =
      BitVec.ofNat 32
        (code.toNat * 2 ^ 10 + r.slot.toNat * 2 ^ 24 + r.mid.toNat * 2 ^ 16 + r.flags.toNat * 2 + r.cycle.toNat) := by
  have hword : (controlOf code r).toNat =
      code.toNat * 2 ^ 10 + r.slot.toNat * 2 ^ 24 + r.mid.toNat * 2 ^ 16 + r.flags.toNat * 2 + r.cycle.toNat := by
    simp only [controlOf, toNat_append_eq_add, BitVec.toNat_ofBool]
    omega
  exact BitVec.eq_of_toNat_eq (by rw [← hword, BitVec.toNat_ofNat, Nat.mod_eq_of_lt (controlOf code r).isLt])

/-! ### Words made of fields -/

/-- A field at the low end of a word. -/
theorem putField_low {f : Span} {w : Nat} (hs : f.shift = 0) (hw : w ≤ f.width) (x : BitVec w) :
    putField f (x.setWidth 64) = x.setWidth 64 := by
  refine BitVec.eq_of_getLsbD_eq fun i hi => ?_
  rw [putField_getLsbD, BitVec.getLsbD_setWidth, BitVec.getLsbD_setWidth, hs]
  by_cases hx : i < w
  · have hwidth : i < f.width := by omega
    simp [hi, hwidth]
  · simp [BitVec.getLsbD_of_ge x i (by omega)]

/-- A field that begins where the fields below it end. -/
theorem setWidth_or_putField {f : Span} {n w : Nat} (hs : f.shift = n) (hw : w ≤ f.width) (hn : n ≤ 64)
    (x : BitVec w) (y : BitVec n) :
    y.setWidth 64 ||| putField f (x.setWidth 64) = (x ++ y).setWidth 64 := by
  refine BitVec.eq_of_getLsbD_eq fun i hi => ?_
  rw [BitVec.getLsbD_or, putField_getLsbD, BitVec.getLsbD_setWidth, BitVec.getLsbD_setWidth, BitVec.getLsbD_setWidth,
    BitVec.getLsbD_append, hs]
  by_cases hy : i < n
  · have hout : ¬n ≤ i := by omega
    simp [hi, hy, hout]
  · by_cases hx : i - n < w
    · have hin : n ≤ i ∧ i < n + f.width := by omega
      have hlt : i - n < 64 := by omega
      simp [hi, hy, hin, hlt]
    · simp [hy, BitVec.getLsbD_of_ge y i (by omega), BitVec.getLsbD_of_ge x (i - n) (by omega)]

/-! ### The operands of each constructor's record -/

/-- Buffer, length, IOC and ISP (R106). -/
def normalRec (buf : Addr) (len : BitVec 17) : Rec :=
  { param := buf, status := len.setWidth 32, cycle := false, flags := 0x12, mid := 0, slot := 0 }

/-- Target and TC (R107). -/
def linkRec (base : Addr) : Rec :=
  { param := base, status := 0, cycle := false, flags := 1, mid := 0, slot := 0 }

/-- The eight setup bytes, their length, IDT and TRT (R109 to R111). -/
def setupRec (bm br : BitVec 8) (wv wi wl : BitVec 16) : Rec :=
  { param := wl ++ (wi ++ (wv ++ (br ++ bm))), status := 8, cycle := false, flags := 0x20
    mid := 0#6 ++ transferType bm wl, slot := 0 }

/-- Buffer, length, the interrupt bits of the configuration and DIR (R112, D6). -/
def dataRec (c : Params) (dirIn : Bool) (buf : Addr) (len : BitVec 17) : Rec :=
  { param := buf, status := len.setWidth 32, cycle := false
    flags := (if c.dataIoc then 0x10 else 0) ||| (if c.dataIsp then 2 else 0)
    mid := if dirIn then 1 else 0, slot := 0 }

/-- The interrupt bit of the configuration and DIR (R113, D6). -/
def statusRec (c : Params) (dirIn : Bool) : Rec :=
  { param := 0, status := 0, cycle := false, flags := if c.statusIoc then 0x10 else 0
    mid := if dirIn then 1 else 0, slot := 0 }

/-- Parameter and slot id (R114). -/
def commandRec (slot : BitVec 8) (param : Word64) : Rec :=
  { param := param, status := 0, cycle := false, flags := 0, mid := 0, slot := slot }

theorem trbOf_standard (k : BitVec 6) (r : Rec) :
    trbOf .standard k r = { param := r.param, status := r.status, control := controlOf k r } := by
  rw [trbOf, Layout.standard_codeOf]

theorem normalTrb_eq_trbOf (buf : Addr) (len : BitVec 17) :
    normalTrb .standard buf len = trbOf .standard 1 (normalRec buf len) := by
  have hcontrol : (0x424 : Word32) = 0#8 ++ 0#8 ++ 1#6 ++ 0x12#9 ++ BitVec.ofBool false := by decide
  rw [normalTrb_standard, hcontrol, trbOf_standard]
  rfl

theorem linkTrb_eq_trbOf (base : Addr) : linkTrb base = trbOf .standard 6 (linkRec base) := by
  have hcontrol : typeBits 6 ||| tcBit = (0#8 ++ 0#8 ++ 6#6 ++ 1#9 ++ BitVec.ofBool false : Word32) := by decide
  rw [linkTrb, hcontrol, trbOf_standard]
  rfl

theorem setupTrb_param (bm br : BitVec 8) (wv wi wl : BitVec 16) :
    (setupTrb .standard bm br wv wi wl).param = wl ++ (wi ++ (wv ++ (br ++ bm))) := by
  dsimp only [setupTrb]
  rw [putField_low (f := Layout.standard.setupRequestType) rfl (by decide),
    setWidth_or_putField (f := Layout.standard.setupRequest) (n := 8) rfl (by decide) (by decide),
    setWidth_or_putField (f := Layout.standard.setupValue) (n := 8 + 8) rfl (by decide) (by decide),
    setWidth_or_putField (f := Layout.standard.setupIndex) (n := 16 + (8 + 8)) rfl (by decide) (by decide),
    setWidth_or_putField (f := Layout.standard.setupLength) (n := 16 + (16 + (8 + 8))) rfl (by decide) (by decide)]
  exact BitVec.setWidth_eq _

theorem setupTrb_eq_trbOf (bm br : BitVec 8) (wv wi wl : BitVec 16) :
    setupTrb .standard bm br wv wi wl = trbOf .standard 2 (setupRec bm br wv wi wl) := by
  have hcontrol : ∀ trt : BitVec 2, typeBits (Layout.standard.codeOf 2) ||| oneBit Layout.standard.idt |||
      (putField Layout.standard.trt (trt.setWidth 64)).setWidth 32 =
        (0#8 ++ (0#6 ++ trt) ++ 2#6 ++ 0x20#9 ++ BitVec.ofBool false : Word32) := by decide
  have hparam := setupTrb_param bm br wv wi wl
  exact congrArg₂ (fun p c => ({ param := p, status := 8, control := c } : Trb)) hparam (hcontrol _)

theorem dataTrb_eq_trbOf {c : Params} (hc : c.layout = .standard) (dirIn : Bool) (buf : Addr) (len : BitVec 17) :
    dataTrb c dirIn buf len = trbOf .standard 3 (dataRec c dirIn buf len) := by
  have hstatus := putField_low_setWidth (f := Layout.standard.transferLength) rfl (by decide) len
  have hcontrol : ∀ ioc isp dir : Bool, typeBits (Layout.standard.codeOf 3) |||
      (if ioc then oneBit Layout.standard.ioc else 0) ||| (if isp then oneBit Layout.standard.isp else 0) |||
        (if dir then oneBit Layout.standard.dir else 0) =
      (0#8 ++ (if dir then 1#8 else 0) ++ 3#6 ++ ((if ioc then 0x10#9 else 0) ||| (if isp then 2 else 0)) ++
        BitVec.ofBool false : Word32) := by decide
  rw [dataTrb, hc, hstatus, hcontrol, trbOf_standard]
  rfl

theorem statusTrb_eq_trbOf {c : Params} (hc : c.layout = .standard) (dirIn : Bool) :
    statusTrb c dirIn = trbOf .standard 4 (statusRec c dirIn) := by
  have hcontrol : ∀ ioc dir : Bool, typeBits (Layout.standard.codeOf 4) |||
      (if ioc then oneBit Layout.standard.ioc else 0) ||| (if dir then oneBit Layout.standard.dir else 0) =
      (0#8 ++ (if dir then 1#8 else 0) ++ 4#6 ++ (if ioc then 0x10#9 else 0) ++ BitVec.ofBool false : Word32) := by
    decide
  rw [statusTrb, hc, hcontrol, trbOf_standard]
  rfl

theorem commandTrb_eq_trbOf (type : BitVec 6) (slot : BitVec 8) (param : Word64) :
    commandTrb type slot param = trbOf .standard type (commandRec slot param) := by
  have hcontrol : typeBits type ||| slot.setWidth 32 <<< 24 = controlOf type (commandRec slot param) := by
    refine BitVec.eq_of_getLsbD_eq fun i hi => ?_
    simp only [typeBits, controlOf, commandRec, BitVec.getLsbD_or, BitVec.getLsbD_shiftLeft, BitVec.getLsbD_setWidth,
      BitVec.getLsbD_append, BitVec.getLsbD_ofBool]
    interval_cases i <;> simp
  rw [commandTrb, hcontrol, trbOf_standard]
  rfl

/-! ### What the accessors read of them (R175) -/

theorem append_injective {m n : Nat} {x x' : BitVec m} {y y' : BitVec n} (h : x ++ y = x' ++ y') : x = x' ∧ y = y' := by
  have hhigh := congrArg (fun w => w.extractLsb' n m) h
  have hlow := congrArg (fun w => w.extractLsb' 0 n) h
  simp only [BitVec.extractLsb'_append_eq_left, BitVec.extractLsb'_append_eq_right] at hhigh hlow
  exact ⟨hhigh, hlow⟩

/-- A length fits in its status word. -/
theorem setWidth_length_injective {len len' : BitVec 17} (h : len.setWidth 32 = len'.setWidth 32) : len = len' := by
  have hback := congrArg (BitVec.setWidth 17) h
  simpa using hback

section

variable (bm br : BitVec 8) (wv wi wl : BitVec 16)

theorem setupTrb_requestType : (setupTrb .standard bm br wv wi wl).param.extractLsb' 0 8 = bm := by
  rw [setupTrb_param, BitVec.extractLsb'_append_eq_of_add_le (by decide),
    BitVec.extractLsb'_append_eq_of_add_le (by decide), BitVec.extractLsb'_append_eq_of_add_le (by decide),
    BitVec.extractLsb'_append_eq_right]

theorem setupTrb_request : (setupTrb .standard bm br wv wi wl).param.extractLsb' 8 8 = br := by
  rw [setupTrb_param, BitVec.extractLsb'_append_eq_of_add_le (by decide),
    BitVec.extractLsb'_append_eq_of_add_le (by decide), BitVec.extractLsb'_append_eq_of_add_le (by decide),
    BitVec.extractLsb'_append_eq_left]

theorem setupTrb_value : (setupTrb .standard bm br wv wi wl).param.extractLsb' 16 16 = wv := by
  rw [setupTrb_param, BitVec.extractLsb'_append_eq_of_add_le (by decide),
    BitVec.extractLsb'_append_eq_of_add_le (by decide)]
  exact BitVec.extractLsb'_append_eq_left

theorem setupTrb_index : (setupTrb .standard bm br wv wi wl).param.extractLsb' 32 16 = wi := by
  rw [setupTrb_param, BitVec.extractLsb'_append_eq_of_add_le (by decide)]
  exact BitVec.extractLsb'_append_eq_left

theorem setupTrb_length : (setupTrb .standard bm br wv wi wl).param.extractLsb' 48 16 = wl := by
  rw [setupTrb_param]
  exact BitVec.extractLsb'_append_eq_left

theorem setupTrb_transferType :
    (setupTrb .standard bm br wv wi wl).control.extractLsb' 16 2 = transferType bm wl := by
  rw [setupTrb_eq_trbOf, trbOf_standard]
  exact (extractLsb'_of_extractLsb' (controlOf_mid _ _) (i := 0) (by decide)).trans BitVec.extractLsb'_append_eq_right

end

theorem setupTrb_injective {bm br bm' br' : BitVec 8} {wv wi wl wv' wi' wl' : BitVec 16}
    (h : setupTrb .standard bm br wv wi wl = setupTrb .standard bm' br' wv' wi' wl') :
    bm = bm' ∧ br = br' ∧ wv = wv' ∧ wi = wi' ∧ wl = wl' := by
  have hparam := congrArg Trb.param h
  rw [setupTrb_param, setupTrb_param] at hparam
  obtain ⟨hwl, hparam⟩ := append_injective hparam
  obtain ⟨hwi, hparam⟩ := append_injective hparam
  obtain ⟨hwv, hparam⟩ := append_injective hparam
  obtain ⟨hbr, hbm⟩ := append_injective hparam
  exact ⟨hbm, hbr, hwv, hwi, hwl⟩

/-- Settles O9: each constructor's record is the record of its type with the operands named above. -/
theorem constructorLaws : Obligations.ConstructorLaws := by
  unfold Obligations.ConstructorLaws
  refine ⟨fun b l => ?normal, fun b => ?link, fun bm br wv wi wl => ?setup, fun c d b l hc => ?stages,
    fun t sl p => ?command, fun b b' l l' h => ?normalInjective, fun b b' h => congrArg Trb.param h,
    fun bm br wv wi wl bm' br' wv' wi' wl' h => setupTrb_injective h, fun c d d' b b' l l' hc h => ?dataInjective,
    fun t t' sl sl' p p' h => ?commandInjective⟩
  case normal => simp [normalTrb_eq_trbOf, normalRec]
  case link => simp [linkTrb_eq_trbOf, linkRec]
  case setup =>
    refine ⟨?_, ?_, ?_, setupTrb_requestType _ _ _ _ _, setupTrb_request _ _ _ _ _, setupTrb_value _ _ _ _ _,
      setupTrb_index _ _ _ _ _, setupTrb_length _ _ _ _ _, setupTrb_transferType _ _ _ _ _⟩
    all_goals simp [setupTrb_eq_trbOf, setupRec]
  case stages => simp [dataTrb_eq_trbOf hc, dataRec, statusTrb_eq_trbOf hc, statusRec]
  case command => simp [commandTrb_eq_trbOf, commandRec]
  case normalInjective =>
    rw [normalTrb_eq_trbOf, normalTrb_eq_trbOf] at h
    obtain ⟨-, hrec⟩ := trbOf_standard_injective h
    exact ⟨congrArg Rec.param hrec, setWidth_length_injective (congrArg Rec.status hrec)⟩
  case dataInjective =>
    rw [dataTrb_eq_trbOf hc, dataTrb_eq_trbOf hc] at h
    obtain ⟨-, hrec⟩ := trbOf_standard_injective h
    have hbit : ∀ x y : Bool, (if x then 1#8 else 0) = (if y then 1 else 0) → x = y := by decide
    exact ⟨hbit d d' (congrArg Rec.mid hrec), congrArg Rec.param hrec,
      setWidth_length_injective (congrArg Rec.status hrec)⟩
  case commandInjective =>
    rw [commandTrb_eq_trbOf, commandTrb_eq_trbOf] at h
    obtain ⟨ht, hrec⟩ := trbOf_standard_injective h
    exact ⟨ht, congrArg Rec.slot hrec, congrArg Rec.param hrec⟩

/-! ### The constructor operations -/

section

variable {s : State} (i : Instr)

/-- Operands that fit are no hindrance. -/
theorem runOp_needs_of_ok {ok : Bool} (h : ok = true) (why : Refusal) (k : Prog) :
    runOp i (needs ok why k) s = runOp i k s := by
  rw [needs, if_pos h]

variable (hs : Unmarked s)

include hs

/-- Operands that do not fit are refused before anything else (R306, R311). -/
theorem runOp_needs_of_not {ok : Bool} (h : ok = false) (why : Refusal) (k : Prog) :
    runOp i (needs ok why k) s = .next (raiseRefusal why s) := by
  rw [h]
  exact runOp_refuse hs.1 hs.2 (Comes.refl _ s) i

/-- An operation on values alone answers at once. -/
theorem runOp_answer (r : Result) : runOp i (.ret r) s = .next (s.finish r) :=
  runOp_ret hs.1 hs.2 (Comes.refl _ s) i

/-- A stage's constructor reads the configuration (D6). -/
theorem runOp_getParams (f : Params → Result) :
    runOp i (getParams fun c => .ret (f c)) s = .next (s.finish (f s.cfg)) :=
  runOp_ret hs.1 hs.2 (comes_getParams _ s) i

end

/-- The Transfer Type of operands that fit (R110). -/
theorem transferType_toNat {bm wl : Nat} (hwl : wl < 2 ^ 16) :
    (transferType (BitVec.ofNat 8 bm) (BitVec.ofNat 16 wl)).toNat =
      if wl = 0 then 0 else if bm.testBit 7 then 3 else 2 := by
  have hzero : BitVec.ofNat 16 wl = 0 ↔ wl = 0 := by
    rw [← BitVec.toNat_inj, BitVec.toNat_ofNat, Nat.mod_eq_of_lt hwl]
    rfl
  have hdir : (BitVec.ofNat 8 bm).getLsbD 7 = bm.testBit 7 := BitVec.getLsbD_ofNat 8 bm 7
  rw [transferType, hdir]
  simp only [hzero]
  split_ifs <;> rfl

/-- The Setup Stage record of operands that fit, its words as numbers (R109, R111, R154). -/
theorem setupTrb_ofNat {bm br wv wi wl : Nat} (hbm : bm < 2 ^ 8) (hbr : br < 2 ^ 8) (hwv : wv < 2 ^ 16)
    (hwi : wi < 2 ^ 16) (hwl : wl < 2 ^ 16) :
    setupTrb .standard (.ofNat 8 bm) (.ofNat 8 br) (.ofNat 16 wv) (.ofNat 16 wi) (.ofNat 16 wl) =
      { param := BitVec.ofNat 64 (bm + br * 2 ^ 8 + wv * 2 ^ 16 + wi * 2 ^ 32 + wl * 2 ^ 48)
        status := 8
        control := BitVec.ofNat 32 (0x840 + (if wl = 0 then 0 else if bm.testBit 7 then 3 else 2) * 2 ^ 16) } := by
  rw [setupTrb_eq_trbOf, trbOf_standard, controlOf_eq_ofNat, Trb.mk.injEq]
  refine ⟨BitVec.eq_of_toNat_eq ?setupBytes, rfl, congrArg (BitVec.ofNat 32) ?fields⟩
  case setupBytes =>
    simp only [setupRec, toNat_append_eq_add, BitVec.toNat_ofNat]
    omega
  case fields =>
    simp only [setupRec, toNat_append_eq_add, transferType_toNat hwl, BitVec.ofNat_eq_ofNat, BitVec.toNat_ofNat,
      Bool.toNat_false]
    omega

/-- Settles O6: the record of the operands, and their widths. -/
theorem setupStageTrbNewReturnsTheRecord : Obligations.SetupStageTrbNewReturnsTheRecord := by
  unfold Obligations.SetupStageTrbNewReturnsTheRecord
  intro bm br wv wi wl s hs hl
  have hexec : exec (.setupStageTrbNew bm br wv wi wl) s =
      runOp (.setupStageTrbNew bm br wv wi wl) (progSetupStageTrbNew .standard bm br wv wi wl) s :=
    congrArg (fun l => runOp _ (progSetupStageTrbNew l bm br wv wi wl) s) hl
  have hok : (fits 8 bm && fits 8 br && fits 16 wv && fits 16 wi && fits 16 wl) =
      decide (bm < 2 ^ 8 ∧ br < 2 ^ 8 ∧ wv < 2 ^ 16 ∧ wi < 2 ^ 16 ∧ wl < 2 ^ 16) := by
    simp only [Bool.decide_and, Bool.and_assoc]
  rw [hexec, progSetupStageTrbNew, hok]
  refine ⟨fun hbm hbr hwv hwi hwl => ?fits, fun hwide => runOp_needs_of_not _ hs (decide_eq_false hwide) _ _⟩
  rw [runOp_needs_of_ok _ (decide_eq_true ⟨hbm, hbr, hwv, hwi, hwl⟩), runOp_answer _ hs,
    setupTrb_ofNat hbm hbr hwv hwi hwl]

/-- The length of operands that fit. -/
theorem length_ofNat {len : Nat} (h : len < 2 ^ 17) :
    (BitVec.ofNat 17 len).setWidth 32 = BitVec.ofNat 32 len := BitVec.setWidth_ofNat_of_le_of_lt (by decide) h

/-- The Normal record of operands that fit (R106, R152). -/
theorem normalTrb_ofNat (buf : Addr) {len : Nat} (h : len < 2 ^ 17) :
    normalTrb .standard buf (.ofNat 17 len) =
      { param := buf, status := BitVec.ofNat 32 len, control := BitVec.ofNat 32 0x424 } := by
  rw [normalTrb_standard, length_ofNat h]
  rfl

/-- The Data Stage record of operands that fit: its direction and the configuration's interrupt bits as one number
(R112). -/
theorem dataTrb_ofNat {c : Params} (hc : c.layout = .standard) (dirIn : Bool) (buf : Addr) {len : Nat}
    (h : len < 2 ^ 17) :
    dataTrb c dirIn buf (.ofNat 17 len) =
      { param := buf, status := BitVec.ofNat 32 len
        control := BitVec.ofNat 32 ((if dirIn then 0x00010C00 else 0x00000C00) +
          ((if c.dataIoc then 0x20 else 0) + (if c.dataIsp then 0x4 else 0))) } := by
  have hflags : ∀ ioc isp : Bool, ((if ioc then 0x10 else 0) ||| (if isp then 2 else 0) : BitVec 9).toNat * 2 =
      (if ioc then 0x20 else 0) + (if isp then 0x4 else 0) := by decide
  have hdir : ∀ dir : Bool, 3 * 2 ^ 10 + (if dir then 1 else 0 : BitVec 8).toNat * 2 ^ 16 =
      if dir then 0x00010C00 else 0x00000C00 := by decide
  rw [dataTrb_eq_trbOf hc, trbOf_standard, controlOf_eq_ofNat, dataRec, length_ofNat h, ← hflags, ← hdir]
  exact congrArg (fun n => Trb.mk buf _ (BitVec.ofNat 32 n)) (by
    simp only [BitVec.ofNat_eq_ofNat, BitVec.toNat_ofNat, Bool.toNat_false]
    omega)

/-- The Status Stage record likewise (R113). -/
theorem statusTrb_ofNat {c : Params} (hc : c.layout = .standard) (dirIn : Bool) :
    statusTrb c dirIn =
      { param := 0, status := 0
        control :=
          BitVec.ofNat 32 ((if dirIn then 0x00011000 else 0x00001000) + if c.statusIoc then 0x20 else 0) } := by
  have hflags : ∀ ioc : Bool, (if ioc then 0x10 else 0 : BitVec 9).toNat * 2 = if ioc then 0x20 else 0 := by decide
  have hdir : ∀ dir : Bool, 4 * 2 ^ 10 + (if dir then 1 else 0 : BitVec 8).toNat * 2 ^ 16 =
      if dir then 0x00011000 else 0x00001000 := by decide
  rw [statusTrb_eq_trbOf hc, trbOf_standard, controlOf_eq_ofNat, statusRec, ← hflags, ← hdir]
  exact congrArg (fun n => Trb.mk 0 0 (BitVec.ofNat 32 n)) (by
    simp only [BitVec.ofNat_eq_ofNat, BitVec.toNat_ofNat, Bool.toNat_false]
    omega)

/-- The command record of operands that fit (R114, R159). -/
theorem commandTrb_ofNat {type slot : Nat} (ht : type < 2 ^ 6) (hslot : slot < 2 ^ 8) (param : Word64) :
    commandTrb (.ofNat 6 type) (.ofNat 8 slot) param =
      { param := param, status := 0, control := BitVec.ofNat 32 (type * 2 ^ 10 + slot * 2 ^ 24) } := by
  rw [commandTrb_eq_trbOf, trbOf_standard, controlOf_eq_ofNat, Trb.mk.injEq]
  refine ⟨rfl, rfl, congrArg (BitVec.ofNat 32) ?_⟩
  simp only [commandRec, BitVec.toNat_ofNat, Nat.mod_eq_of_lt ht, Nat.mod_eq_of_lt hslot, BitVec.ofNat_eq_ofNat,
    Bool.toNat_false]
  omega

/-- Settles O8: the type is checked, then the widths. -/
theorem commandTrbNewReturnsTheRecord : Obligations.CommandTrbNewReturnsTheRecord := by
  unfold Obligations.CommandTrbNewReturnsTheRecord
  intro ty slotId param s hs
  have hexec : exec (.commandTrbNew ty slotId param) s =
      runOp (.commandTrbNew ty slotId param) (progCommandTrbNew ty slotId param) s := rfl
  rw [hexec, progCommandTrbNew, ← Bool.decide_and, ← Bool.decide_and]
  refine ⟨fun h9 h25 hslot hparam => ?record, fun hrange => runOp_needs_of_not _ hs (decide_eq_false hrange) _ _,
    fun h9 h25 hwide => ?width⟩
  all_goals rw [runOp_needs_of_ok _ (decide_eq_true ⟨h9, h25⟩)]
  case record =>
    rw [runOp_needs_of_ok _ (decide_eq_true ⟨hslot, hparam⟩), runOp_answer _ hs, commandTrb_ofNat (by omega) hslot]
  case width => exact runOp_needs_of_not _ hs (decide_eq_false hwide) _ _

/-- Settles O7: the records of the three constructors, in both directions, and the widths of their operands. -/
theorem transferConstructorsReturnTheRecords : Obligations.TransferConstructorsReturnTheRecords := by
  unfold Obligations.TransferConstructorsReturnTheRecords
  intro buf len s hs hl record status dataInt statusInt
  have hnormal : exec (.normalTrbNew buf len) s =
      runOp (.normalTrbNew buf len) (progNormalTrbNew .standard buf len) s :=
    congrArg (fun l => runOp _ (progNormalTrbNew l buf len) s) hl
  have hin : exec (.dataStageTrbNewIn buf len) s =
      runOp (.dataStageTrbNewIn buf len) (progDataStageTrbNew true buf len) s := rfl
  have hout : exec (.dataStageTrbNewOut buf len) s =
      runOp (.dataStageTrbNewOut buf len) (progDataStageTrbNew false buf len) s := rfl
  have hstatus : exec .statusStageTrbNewIn s = .next (status (0x00011000 + statusInt)) ∧
      exec .statusStageTrbNewOut s = .next (status (0x00001000 + statusInt)) :=
    ⟨(runOp_getParams _ hs _).trans (by rw [statusTrb_ofNat hl]; rfl),
      (runOp_getParams _ hs _).trans (by rw [statusTrb_ofNat hl]; rfl)⟩
  have hwidths : (fits 64 buf && fits 17 len) = decide (buf < 2 ^ 64 ∧ len < 2 ^ 17) := (Bool.decide_and _ _).symm
  refine ⟨fun hbuf hlen => ?fits, hstatus.1, hstatus.2, fun hioc => ?status, fun hwide => ?wide⟩
  case fits =>
    have hok : (fits 64 buf && fits 17 len) = true := by rw [hwidths, decide_eq_true ⟨hbuf, hlen⟩]
    have hdata : exec (.dataStageTrbNewIn buf len) s = .next (record (0x00010C00 + dataInt)) ∧
        exec (.dataStageTrbNewOut buf len) s = .next (record (0x00000C00 + dataInt)) := by
      rw [hin, hout, progDataStageTrbNew, progDataStageTrbNew, runOp_needs_of_ok _ hok, runOp_needs_of_ok _ hok,
        runOp_getParams _ hs, runOp_getParams _ hs, dataTrb_ofNat hl _ _ hlen, dataTrb_ofNat hl _ _ hlen]
      exact ⟨rfl, rfl⟩
    refine ⟨?normal, hdata.1, hdata.2, fun hioc hisp => ?decided⟩
    case normal => rw [hnormal, progNormalTrbNew, runOp_needs_of_ok _ hok, runOp_answer _ hs, normalTrb_ofNat _ hlen]
    case decided => simpa [dataInt, hioc, hisp] using hdata
  case status => simpa [statusInt, hioc] using hstatus
  case wide =>
    have hnot : (fits 64 buf && fits 17 len) = false := by rw [hwidths, decide_eq_false hwide]
    rw [hnormal, hin, hout]
    exact ⟨runOp_needs_of_not _ hs hnot _ _, runOp_needs_of_not _ hs hnot _ _, runOp_needs_of_not _ hs hnot _ _⟩

end Sys2Proof.Machine
end

section
/-! SUPPORT. The accessors of a record held as a value (R164 to R174): the name and the length field of a type code, and
the view of an event record. -/

namespace Sys2Proof.Machine

open Sys2Proof

/-! ### The name of a type code (R174) -/

section

variable {kind code : BitVec 6}

theorem classOfKind_command (h : 9 ≤ kind.toNat) (h' : kind.toNat ≤ 25) : classOfKind kind code = .command code := by
  grind [classOfKind]

theorem classOfKind_event (h : 32 ≤ kind.toNat) (h' : kind.toNat ≤ 39) : classOfKind kind code = .event code := by
  grind [classOfKind]

theorem classOfKind_vendor (h : 48 ≤ kind.toNat) : classOfKind kind code = .vendor code := by
  grind [classOfKind]

theorem classOfKind_reserved
    (h : kind.toNat = 0 ∨ (26 ≤ kind.toNat ∧ kind.toNat ≤ 31) ∨ (40 ≤ kind.toNat ∧ kind.toNat ≤ 47)) :
    classOfKind kind code = .reserved code := by
  obtain h | ⟨h, h'⟩ | ⟨h, h'⟩ := h
  · simp [classOfKind, h]
  · grind [classOfKind]
  · grind [classOfKind]

end

/-- Settles O11: the ranges of the type codes, and the answer of the accessor. -/
theorem classifyIsTheTypeCodeMap : Obligations.ClassifyIsTheTypeCodeMap := by
  unfold Obligations.ClassifyIsTheTypeCodeMap
  refine ⟨⟨by decide, by decide, by decide, by decide, by decide, by decide, by decide, by decide, fun c => ?ranges⟩,
    fun t s hs => runOp_answer _ hs _⟩
  rw [classOf_standard]
  exact ⟨classOfKind_command, classOfKind_event, classOfKind_reserved, classOfKind_vendor⟩

/-! ### The length field of a type code (R170) -/

section

variable {code : BitVec 6}

theorem lengthField_event (h : 32 ≤ code.toNat) (h' : code.toNat ≤ 39) : lengthField .standard code = .event := by
  rw [lengthField, classOf_standard, classOfKind_event h h']

/-- The transfer TRBs, a Link among them (log 24). -/
theorem lengthField_transfer (h : 1 ≤ code.toNat) (h' : code.toNat ≤ 8) : lengthField .standard code = .transfer := by
  rw [lengthField, classOf_standard]
  interval_cases hcode : code.toNat <;> simp [classOfKind, hcode]

theorem lengthField_unstated (h : ¬(32 ≤ code.toNat ∧ code.toNat ≤ 39)) (h' : ¬(1 ≤ code.toNat ∧ code.toNat ≤ 8)) :
    lengthField .standard code = .unstated := by
  obtain hr | ⟨hlo, hhi⟩ | hv : (code.toNat = 0 ∨ (26 ≤ code.toNat ∧ code.toNat ≤ 31) ∨
      (40 ≤ code.toNat ∧ code.toNat ≤ 47)) ∨ (9 ≤ code.toNat ∧ code.toNat ≤ 25) ∨ 48 ≤ code.toNat := by omega
  · rw [lengthField, classOf_standard, classOfKind_reserved hr]
  · rw [lengthField, classOf_standard, classOfKind_command hlo hhi]
  · rw [lengthField, classOf_standard, classOfKind_vendor hv]

end

/-! ### The accessors of a value -/

/-- `transfer_length` of a value, at the layout of R105. -/
theorem exec_transferLength_value {s : State} (hl : StandardLayout s) (t : Trb) :
    exec (.transferLength (.value t)) s =
      runOp (.transferLength (.value t))
        (lengthOf .standard (lengthField .standard (trbTypeOf t)) (t.status.setWidth 64) fun w => .ret (.word w)) s :=
  congrArg (fun l => runOp _ (progTransferLength l (.value t)) s) hl

/-- Settles O10: a value answers at once; its type chooses the length field. -/
theorem accessorsOfAValue : Obligations.AccessorsOfAValue := by
  unfold Obligations.AccessorsOfAValue
  intro t s hs hl n
  refine ⟨runOp_answer _ hs _, (runOp_answer _ hs _).trans ?type, runOp_answer _ hs _, runOp_answer _ hs _,
    runOp_answer _ hs _, (runOp_answer _ hs _).trans ?code, (runOp_answer _ hs _).trans ?cls,
    fun h h' => ?event, fun h h' => ?transfer, fun h h' => ?unstated⟩
  case type => rw [BitVec.ofNat_toNat]; rfl
  case code => rw [hl, ← trbCompletionCode_standard]
  case cls => rw [hl]; rfl
  all_goals rw [exec_transferLength_value hl, trbTypeOf, typeField]
  case event =>
    rw [lengthField_event h h', ← trbEventLength_standard]
    exact runOp_answer _ hs _
  case transfer =>
    rw [lengthField_transfer h h', ← trbTransferLength_standard]
    exact runOp_answer _ hs _
  case unstated =>
    rw [lengthField_unstated h h']
    exact runOp_ret hs.1 hs.2 (comes_drawWord (fun w => .ret (.word w)) s) _

/-! ### Records held as a value (R171 to R173) -/

/-- The endpoint id of a record. -/
theorem trbEndpoint_trbOf (code : BitVec 6) (r : Rec) :
    trbEndpoint .standard (trbOf .standard code r) = (r.mid.extractLsb' 0 5).setWidth 64 := by
  rw [trbEndpoint_standard]
  exact congrArg (BitVec.setWidth 64) (extractLsb'_of_extractLsb' (controlOf_mid _ r) (i := 0) (by decide))

/-- The view of a record's type (R171 to R173). -/
theorem eventViewOf_trbOf (code : BitVec 6) (r : Rec) :
    eventViewOf .standard (trbOf .standard code r) =
      if code = 32 then
        .transfer r.param ((r.status.extractLsb' 0 24).setWidth 64) ((r.status.extractLsb' 24 8).setWidth 64)
          ((r.mid.extractLsb' 0 5).setWidth 64) r.slot
      else if code = 33 then .completion r.param ((r.status.extractLsb' 24 8).setWidth 64) r.slot
      else if code = 34 then .port ((r.param.extractLsb' 24 8).setWidth 64) ((r.status.extractLsb' 24 8).setWidth 64)
      else .uniform := by
  simp only [eventViewOf, trbTypeOf_trbOf, Layout.standard_kindOf, trbEventLength_standard, trbCompletionCode_standard,
    trbPortId_standard, trbEndpoint_trbOf, trbSlotId_trbOf, trbOf_param, trbOf_status]

/-- Settles O47: software answers the view of the record's words. -/
theorem recordValueIsRead : Obligations.RecordValueIsRead := by
  unfold Obligations.RecordValueIsRead
  intro code r s hs hserving hl word
  rw [exec_recordOf, consumeRecord, hserving, hl]
  refine (runOp_answer _ hs _).trans ?_
  rw [viewOf, eventViewOf_trbOf, trbTypeOf_trbOf, trbCycle_trbOf, trbSlotId_trbOf, trbToggle_trbOf, trbOf_param]

end Sys2Proof.Machine
end

section
/-! SUPPORT. Operations on a slot or a ring that give the ring's lock back (R85, R191, R229, R230): what they answer, read
or store, and that the rest is left as it was. -/

namespace Sys2Proof.Machine

open Sys2Proof

/-! ### The lock given back -/

@[simp] theorem held_mem (r : RingId) (s : State) : (held r s).mem = s.mem := by cases r <;> rfl

/-- A lock does not see memory or the record of accesses. -/
theorem released_withMem (r : RingId) (s : State) (m : Memory) (tr : List Access) :
    released r { s with mem := m, trace := tr } = { released r s with mem := m, trace := tr } := by cases r <;> rfl

theorem released_withTrace (r : RingId) (s : State) (tr : List Access) :
    released r { s with trace := tr } = { released r s with trace := tr } := by cases r <;> rfl

/-- Rewriting the place of a Transfer Ring with what stands there changes nothing. -/
theorem modifyTransfer_eq_self {s : State} {k : Nat} {t : TransferRing} (h : s.transferRing? k = some t)
    {f : TransferRing → TransferRing} (hf : f t = t) : s.modifyTransfer k f = s.transferRings := by
  have hk : s.transferRings[k]? = some (some t) := Option.join_eq_some_iff.1 h
  refine List.ext_getElem? fun j => ?_
  rw [State.modifyTransfer, List.getElem?_modify]
  split
  case isTrue hj =>
    subst hj
    simp [hk, hf]
  case isFalse => exact id_map _

/-- Taking a free lock and giving it back changes nothing. -/
theorem released_held {r : RingId} {s : State} (h : LockFree s r) : released r (held r s) = s := by
  cases r with
  | transfer k =>
    obtain ⟨t, ht, hfree⟩ := Option.map_eq_some_iff.1 h
    have hmodify := modifyTransfer_eq_self ht (f := fun t => { t with lock := .free }) (by rw [← hfree])
    have hpair : released (.transfer k) (held (.transfer k) s) =
        { s with transferRings := s.modifyTransfer k fun t => { t with lock := .free } } := by
      simp [released, held, setLock_ring, State.modifyTransfer, List.modify_modify_eq, Function.comp_def]
    rw [hpair, hmodify]
  | command | event | bare k => rfl

theorem released_held_withMem {r : RingId} {s : State} (h : LockFree s r) (m : Memory) (tr : List Access) :
    released r { held r s with mem := m, trace := tr } = { s with mem := m, trace := tr } := by
  rw [released_withMem, released_held h]

theorem released_held_withTrace {r : RingId} {s : State} (h : LockFree s r) (tr : List Access) :
    released r { held r s with trace := tr } = { s with trace := tr } := by
  rw [released_withTrace, released_held h]

/-- An operation that has come to its result under the lock. -/
theorem runOp_unlock {r : RingId} {s u : State} (hs : Unmarked s) {p : Prog} {res : Result}
    (h : Comes p s (unlockRing r (.ret res)) u) (op : Instr) : runOp op p s = .next ((released r u).finish res) :=
  runOp_ret hs.1 hs.2 (h.trans (comes_unlockRing r _ u)) op

section

variable {r : RingId} {b : RingBuf} {s : State} (hs : Unmarked s) (hr : s.ring? r = some b) (hfree : LockFree s r)
  (op : Instr)

include hs hr hfree

/-- An operation that looks at its ring only. -/
theorem runOp_inspect (f : RingBuf → Result) :
    runOp op (lockRing r (getRing r fun b => unlockRing r (.ret (f b)))) s = .next (s.finish (f b)) := by
  have hring := (comes_lockRing hfree _).trans (comes_getRing (ring?_held hr) fun b => unlockRing r (.ret (f b)))
  rw [runOp_unlock hs hring, released_held hfree]

variable {i : Nat}

/-- An operation that asks for the address of a slot only (R191). -/
theorem runOp_address (hi : i < 16) (f : Addr → Result) :
    runOp op (atSlot r i fun a => unlockRing r (.ret (f a))) s = .next (s.finish (f (slotAt b.phys i))) := by
  rw [runOp_unlock hs (comes_atSlot hfree hr hi fun a => unlockRing r (.ret (f a))), released_held hfree]

/-- An index outside the ring is fatal, with the lock held (R191, R305, R314). -/
theorem runOp_atSlot_fatal (hi : 16 ≤ i) (f : Addr → Prog) :
    runOp op (atSlot r i f) s = .next (raiseFatal .ringIndex (held r s)) := by
  have hring := comes_getRing (ring?_held hr) fun b =>
    if Config.ringLen ≤ i then Prog.fatal .ringIndex else f (slotAt b.phys i)
  rw [if_pos (show Config.ringLen ≤ i from hi)] at hring
  exact runOp_fatal hs.1 hs.2 ((comes_lockRing hfree _).trans hring) op

/-- An operation that only reads the slot. -/
theorem answered_atSlot (hi : i < 16) {f : Addr → Prog} {res : Result}
    (h : ∃ tr, Comes (f (slotAt b.phys i)) (held r s) (unlockRing r (.ret res)) { held r s with trace := tr }) :
    ∃ u, runOp op (atSlot r i f) s = .next u ∧ Answered s u res := by
  obtain ⟨tr, hread⟩ := h
  have hrun := runOp_unlock hs ((comes_atSlot hfree hr hi f).trans hread) op
  rw [released_held_withTrace hfree] at hrun
  exact ⟨_, hrun, rfl⟩

/-- An operation that stores to `n` bytes from `at_` on. -/
theorem stored_atSlot (hi : i < 16) {f : Addr → Prog} {res : Result} {m : Memory} {at_ n : Nat}
    (h : ∃ tr, Comes (f (slotAt b.phys i)) (held r s) (unlockRing r (.ret res))
      { held r s with mem := m, trace := tr })
    (hm : ∀ x, (x < at_ ∨ at_ + n ≤ x) → m.read x = s.mem.read x) :
    ∃ u, runOp op (atSlot r i f) s = .next u ∧ Stored s u res at_ n ∧ u.mem = m := by
  obtain ⟨tr, hstore⟩ := h
  have hrun := runOp_unlock hs ((comes_atSlot hfree hr hi f).trans hstore) op
  rw [released_held_withMem hfree] at hrun
  exact ⟨_, hrun, ⟨hm, rfl⟩, rfl⟩

end

/-! ### Ring inspections (R191, R195, R196, R213, R230) -/

section

variable {k : Nat} {t : TransferRing} {s : State} (hs : Unmarked s) (ht : s.transferRing? k = some t)
  (hfree : LockFree s (.transfer k)) (op : Instr)

include hs ht hfree

/-- An operation that looks at its Transfer Ring only (R230). -/
theorem runOp_inspectTransfer {f : TransferRing → Result} (hf : ∀ l, f { t with lock := l } = f t) :
    runOp op (acquire (.ring k) (getTransfer k fun t => release (.ring k) (.ret (f t)))) s =
      .next (s.finish (f t)) := by
  have hrelease : released (.transfer k) (s.setLock (.ring k) (.held s.agent)) = s := released_held hfree
  have hread := (comes_acquire hfree _).trans (comes_getTransfer (transferRing?_setLock ht (.held s.agent))
    fun t => unlockRing (.transfer k) (.ret (f t)))
  have hrun := runOp_unlock hs hread op
  rwa [hf, hrelease] at hrun

end

/-- Settles O24: none makes an access, and a lock taken is given back. -/
theorem slotsAndAddresses : Obligations.SlotsAndAddresses := by
  unfold Obligations.SlotsAndAddresses
  intro r b i s hs hr hfree
  refine ⟨fun hi => ⟨runOp_address hs hr hfree _ hi .word, runOp_address hs hr hfree _ hi fun _ => .slotRef r i⟩,
    fun hi => ⟨runOp_atSlot_fatal hs hr hfree _ hi _, runOp_atSlot_fatal hs hr hfree _ hi _⟩,
    runOp_inspect hs hr hfree _ fun b => .slotRef r b.index.val, fun k t hk ht => ?cursors,
    runOp_inspect hs hr hfree _ fun b => .word b.phys, ?link, fun hcommand => ?commandRing⟩
  case cursors =>
    subst hk
    exact ⟨runOp_inspectTransfer hs ht hfree _ (f := fun t => .slotRef (.transfer k) t.deq.val) fun _ => rfl,
      runOp_inspectTransfer hs ht hfree _ (f := fun t => .flag t.cso) fun _ => rfl⟩
  case link =>
    have hcontrol : typeBits 6 ||| tcBit = 0x00001802 := by decide
    rw [← hcontrol]
    exact runOp_ret hs.1 hs.2 (comes_getRing hr fun b => .ret (.trb (linkTrb b.phys))) _
  case commandRing =>
    subst hcommand
    exact ⟨runOp_ret hs.1 hs.2 (comes_getRing hr fun b => .ret (.word b.phys)) _,
      runOp_ret hs.1 hs.2 (comes_getRing hr fun b => .ret (.word (b.phys ||| 1#64))) _⟩

/-! ### The accessors of a slot (R150, R164 to R170, R174) -/

/-- The span of a word of 32 bits that is read is the field. -/
theorem readSpan_eq_extract {shift width : Nat} (h : shift + width ≤ 32) (w : Word32) :
    readSpan shift width (w.setWidth 64) = (w.extractLsb' shift width).setWidth 64 :=
  readField_setWidth { shift := shift, width := width } w h

/-- A word of 4 bytes read at `a`, as a word of 32 bits. -/
theorem readWord_four (m : Memory) (a : Addr) :
    m.readWord a 4 = ((m.readWord a 4).setWidth 32 : Word32).setWidth 64 := (Memory.readWord_four_mask m a).symm

/-- Reading a field of the control word of slot `i`. -/
theorem comes_readControl {shift width : Nat} (h : shift + width ≤ 32) (base : Addr) (i : Nat) (k : Word64 → Prog)
    (s : State) :
    ∃ tr, Comes (readBitsAt (.dma (controlAt base i)) 4 shift width k) s
      (k (((slotTrb s.mem base i).control.extractLsb' shift width).setWidth 64)) { s with trace := tr } := by
  obtain ⟨tr, hread⟩ := comes_readBitsAt_dma (a := controlAt base i) (n := 4) (by omega) h k s
  rw [readWord_control, readSpan_eq_extract h] at hread
  exact ⟨tr, hread⟩

/-- Reading the status word of slot `i`, or a field of it. -/
theorem comes_readStatus (base : Addr) (i : Nat) (k : Word64 → Prog) (s : State) :
    ∃ tr, Comes (readWord (.dma (slotAt base i + 8)) 4 k) s (k ((slotTrb s.mem base i).status.setWidth 64))
      { s with trace := tr } := by
  obtain ⟨tr, hread⟩ := comes_readWord_dma (a := slotAt base i + 8) (n := 4) (by omega) k s
  rw [readWord_four] at hread
  exact ⟨tr, hread⟩

theorem comes_readStatusBits {shift width : Nat} (h : shift + width ≤ 32) (base : Addr) (i : Nat) (k : Word64 → Prog)
    (s : State) :
    ∃ tr, Comes (readBitsAt (.dma (slotAt base i + 8)) 4 shift width k) s
      (k (((slotTrb s.mem base i).status.extractLsb' shift width).setWidth 64)) { s with trace := tr } := by
  rw [readBitsAt, if_neg (Nat.not_lt.2 h), ← readSpan_eq_extract h]
  exact comes_readStatus base i (fun v => k (readSpan shift width v)) s

/-- A type code is read back from the word it is answered in. -/
theorem setWidth_typeCode (code : BitVec 6) : (code.setWidth 64).setWidth 6 = code := by simp

/-- What `transfer_length` does at the address of a slot, at the layout of R105. -/
def slotLength (r : RingId) (a : Addr) : Prog :=
  readBitsAt (.dma (a + 12)) 4 10 6 fun code =>
    readWord (.dma (a + 8)) 4 fun status =>
      lengthOf .standard (lengthField .standard (code.setWidth 6)) status fun w => unlockRing r (.ret (.word w))

theorem progTransferLength_slot (r : RingId) (i : Nat) :
    progTransferLength .standard (.slot r i) = atSlot r i (slotLength r) := rfl

/-- `transfer_length` reads the type, then the status word (R170; log 24). -/
theorem comes_slotLength {field : LengthField} {length : Word64} {base : Addr} {i : Nat} {s : State}
    (hfield : lengthField .standard (trbTypeOf (slotTrb s.mem base i)) = field)
    (hlength : ∀ k, lengthOf .standard field ((slotTrb s.mem base i).status.setWidth 64) k = k length) (r : RingId) :
    ∃ tr, Comes (slotLength r (slotAt base i)) s (unlockRing r (.ret (.word length))) { s with trace := tr } := by
  obtain ⟨tr, hcode⟩ := comes_readType base i
    (fun code => readWord (.dma (slotAt base i + 8)) 4 fun status =>
      lengthOf .standard (lengthField .standard (code.setWidth 6)) status fun w => unlockRing r (.ret (.word w))) s
  obtain ⟨tr', hstatus⟩ := comes_readStatus base i
    (fun status => lengthOf .standard field status fun w => unlockRing r (.ret (.word w))) { s with trace := tr }
  rw [setWidth_typeCode, hfield] at hcode
  rw [hlength] at hstatus
  exact ⟨tr', hcode.trans hstatus⟩

section

variable {r : RingId} {b : RingBuf} {i : Nat} {s : State} (hs : Unmarked s) (hr : s.ring? r = some b)
  (hfree : LockFree s r) (hi : i < 16) (op : Instr)

include hs hr hfree hi

/-- An accessor of a field of the control word. -/
theorem answered_controlField {shift width : Nat} (hw : shift + width ≤ 32) (f : Word64 → Result) :
    ∃ u, runOp op (atSlot r i fun a => controlField shift width f a fun res => unlockRing r (.ret res)) s = .next u ∧
      Answered s u (f (((slotTrb s.mem b.phys i).control.extractLsb' shift width).setWidth 64)) := by
  refine answered_atSlot hs hr hfree op hi ?_
  rw [← held_mem r s]
  exact comes_readControl hw b.phys i (fun v => unlockRing r (.ret (f v))) (held r s)

end

/-- Settles O12: each accessor runs under the lock and reads the words of the record it needs. -/
theorem accessorsOfASlot : Obligations.AccessorsOfASlot := by
  unfold Obligations.AccessorsOfASlot
  intro r b i s hs hl hr hp hi hfree t
  have haddr : (slotAt b.phys i).toNat + 16 ≤ 2 ^ 64 := by
    have hplaced : b.phys.toNat + 256 ≤ 2 ^ 64 := hp
    rw [slotAt_toNat hplaced hi]
    omega
  have hlength : exec (.transferLength (.slot r i)) s =
      runOp (.transferLength (.slot r i)) (progTransferLength .standard (.slot r i)) s :=
    congrArg (fun l => runOp _ (progTransferLength l (.slot r i)) s) hl
  have hcompletion : exec (.completionCode (.slot r i)) s =
      runOp (.completionCode (.slot r i)) (progCompletionCode .standard (.slot r i)) s :=
    congrArg (fun l => runOp _ (progCompletionCode l (.slot r i)) s) hl
  have hclassify : exec (.classify (.slot r i)) s =
      runOp (.classify (.slot r i)) (progClassify .standard (.slot r i)) s :=
    congrArg (fun l => runOp _ (progClassify l (.slot r i)) s) hl
  have hmem : t = slotTrb (held r s).mem b.phys i := by rw [held_mem]
  have field {shift width : Nat} (op : Instr) (hw : shift + width ≤ 32) (f : Word64 → Result) :=
    answered_controlField hs hr hfree hi op hw f
  have bitOf (j : Nat) : ((t.control.extractLsb' j 1).setWidth 64).getLsbD 0 = t.control.getLsbD j := by simp
  refine ⟨?cycle, field _ (by decide) .word, field _ (by decide) .word, ?data, ?toggle, ?completionCode,
    fun hlo hhi => ?event, fun hlo hhi => ?transfer, ?cls, ?load⟩
  case cycle =>
    rw [← bitOf]
    exact field _ (by decide) fun w => .flag (w.getLsbD 0)
  case toggle =>
    rw [← bitOf]
    exact field _ (by decide) fun w => .flag (w.getLsbD 0)
  case cls =>
    rw [hclassify, ← setWidth_typeCode (t.control.extractLsb' 10 6)]
    exact field _ (by decide) fun w => .cls (classOf .standard (w.setWidth 6))
  case data =>
    refine answered_atSlot hs hr hfree _ hi
      (f := fun a => readWord (.dma a) 8 fun v => unlockRing r (.ret (.word v))) ?_
    rw [hmem]
    exact comes_readWord_dma (fun _ => by omega) (fun v => unlockRing r (.ret (.word v))) (held r s)
  case completionCode =>
    rw [hcompletion, hmem]
    exact answered_atSlot hs hr hfree _ hi
      (f := fun a => readBitsAt (.dma (a + 8)) 4 24 8 fun v => unlockRing r (.ret (.word v)))
      (comes_readStatusBits (by decide) b.phys i (fun v => unlockRing r (.ret (.word v))) (held r s))
  case event =>
    rw [hlength, progTransferLength_slot]
    rw [hmem] at hlo hhi ⊢
    rw [← trbEventLength_standard]
    exact answered_atSlot hs hr hfree _ hi (comes_slotLength (lengthField_event hlo hhi) (fun _ => rfl) r)
  case transfer =>
    rw [hlength, progTransferLength_slot]
    rw [hmem] at hlo hhi ⊢
    rw [← trbTransferLength_standard]
    exact answered_atSlot hs hr hfree _ hi (comes_slotLength (lengthField_transfer hlo hhi) (fun _ => rfl) r)
  case load =>
    refine answered_atSlot hs hr hfree _ hi (f := fun a => loadTrb a fun t => unlockRing r (.ret (.trb t))) ?_
    rw [hmem]
    exact comes_loadTrb haddr (fun t => unlockRing r (.ret (.trb t))) (held r s)

/-- Settles O14: both run under the lock, and store to the slot only. -/
theorem storeAndSetCycleState : Obligations.StoreAndSetCycleState := by
  unfold Obligations.StoreAndSetCycleState
  intro r b i x c s hs hr hp hi hfree hwf
  have hplaced : b.phys.toNat + 256 ≤ 2 ^ 64 := hp
  have haddr := slotAt_toNat hplaced hi
  refine ⟨?store, ?setCycle⟩
  case store =>
    have hstore := comes_storeTrb (a := slotAt b.phys i) (by omega) x (unlockRing r (.ret .unit)) (held r s)
    rw [held_mem] at hstore
    obtain ⟨u, hexec, hstored, hmem⟩ := stored_atSlot hs hr hfree (.store r i x) hi
      (f := fun a => storeTrb a x (unlockRing r (.ret .unit))) hstore
      fun y hy => read_putTrb_outside hwf (by omega) _ (haddr ▸ hy)
    refine ⟨u, hexec, haddr ▸ hstored, ?_⟩
    rw [hmem, slotTrb_putTrb hwf hplaced hi hi, if_pos rfl]
    rfl
  case setCycle =>
    have hcycle := comes_writeCycle b.phys i c (unlockRing r (.ret .unit)) (held r s)
    rw [held_mem] at hcycle
    obtain ⟨u, hexec, hstored, hmem⟩ := stored_atSlot hs hr hfree (.setCycleState r i c) hi
      (f := fun a => writeBitsAt (.dma (a + 12)) 4 0 1 (bit c) (unlockRing r (.ret .unit)))
      (at_ := b.phys.toNat + 16 * i + 12) (n := 4) hcycle
      fun y hy => read_putCycle_outside hwf hplaced hi c hy
    refine ⟨u, hexec, hstored, ?_⟩
    rw [hmem, slotTrb_putCycle hwf hplaced hi hi, if_pos rfl]

end Sys2Proof.Machine
end

section
/-! SUPPORT. The cursor and the flag of a ring (R24, R28, R31, R192, R198), what a move of them leaves as it was, and the
operations of a Ring Buffer that only index its slots or make it anew (R190, R191, R194, R197). -/

namespace Sys2Proof.Machine

open Sys2Proof

/-! ### The cursor and the flag -/

/-- The Transfer Ring at a place after the place has been rewritten. -/
theorem transferRing?_modifyTransfer (s : State) (k : Nat) (f : TransferRing → TransferRing) :
    State.transferRing? { s with transferRings := s.modifyTransfer k f } k = (s.transferRing? k).map f := by
  simp only [State.transferRing?, State.modifyTransfer, List.getElem?_modify_eq]
  cases s.transferRings[k]? <;> rfl

/-- Writing the cursor of a ring that stands (R24). -/
theorem ring?_setIndex {s : State} {r : RingId} {b : RingBuf} (h : s.ring? r = some b) (i : Fin 16) :
    (s.setIndex r i).ring? r = some { b with index := i } := by
  cases r with
  | command =>
    obtain ⟨c, hc, rfl⟩ := Option.map_eq_some_iff.1 h
    simp [State.ring?, State.setIndex, hc]
  | transfer k =>
    obtain ⟨t, ht, rfl⟩ := Option.map_eq_some_iff.1 h
    have hmoved := transferRing?_modifyTransfer s k fun t => { t with ring := { t.ring with index := i } }
    rw [ht] at hmoved
    exact congrArg (Option.map TransferRing.ring) hmoved
  | event =>
    obtain ⟨e, he, rfl⟩ := Option.map_eq_some_iff.1 h
    simp [State.ring?, State.setIndex, he]
  | bare k =>
    have hk : s.bareRings[k]? = some (some b) := Option.join_eq_some_iff.1 h
    simp [State.ring?, State.setIndex, hk]

/-- The cursor moves on past a slot (R192, R193). -/
theorem ring?_moveIndex {s : State} {r : RingId} {b : RingBuf} (h : s.ring? r = some b) (i : Fin 16) :
    (s.moveIndex r i).ring? r = some { b with index := i } := by
  cases r with
  | event =>
    obtain ⟨e, he, rfl⟩ := Option.map_eq_some_iff.1 h
    rw [moveIndex_event he]
    rfl
  | command => exact ring?_setIndex h i
  | transfer k => exact ring?_setIndex h i
  | bare k => exact ring?_setIndex h i

/-- Neither a write to memory nor the end of an operation moves a cursor. -/
theorem ring?_withMem (s : State) (r : RingId) (m : Memory) (tr : List Access) :
    State.ring? { s with mem := m, trace := tr } r = s.ring? r := by cases r <;> rfl

theorem ring?_finish (s : State) (r : RingId) (res : Result) : (s.finish res).ring? r = s.ring? r := by
  cases r <;> rfl

/-- Nor does either change a flag. -/
theorem cso?_withMem (s : State) (o : RingOwner) (m : Memory) (tr : List Access) :
    State.cso? { s with mem := m, trace := tr } o = s.cso? o := by cases o <;> rfl

theorem cso?_finish (s : State) (o : RingOwner) (res : Result) : (s.finish res).cso? o = s.cso? o := by
  cases o <;> rfl

/-- Moving the cursor leaves the flag. -/
theorem cso?_moveIndex (s : State) (o : RingOwner) (i : Fin 16) :
    (s.moveIndex (ownerRing o) i).cso? o = s.cso? o := by
  cases o with
  | command => exact Option.map_map ..
  | transfer k =>
    have hmoved := transferRing?_modifyTransfer s k fun t => { t with ring := { t.ring with index := i } }
    exact (congrArg (Option.map TransferRing.cso) hmoved).trans (Option.map_map ..)

/-- Writing the flag of a ring that stands (R28, R31). -/
theorem cso?_setCso {s : State} {o : RingOwner} {c : Bool} (h : s.cso? o = some c) (c' : Bool) :
    (s.setCso o c').cso? o = some c' := by
  cases o with
  | command =>
    obtain ⟨r, hr, -⟩ := Option.map_eq_some_iff.1 h
    simp [State.cso?, State.setCso, hr]
  | transfer k =>
    obtain ⟨t, ht, -⟩ := Option.map_eq_some_iff.1 h
    have hset := transferRing?_modifyTransfer s k fun t => { t with cso := c' }
    rw [ht] at hset
    exact congrArg (Option.map TransferRing.cso) hset

/-- Writing the flag leaves the cursor. -/
theorem ring?_setCso (s : State) (o : RingOwner) (c : Bool) :
    (s.setCso o c).ring? (ownerRing o) = s.ring? (ownerRing o) := by
  cases o with
  | command => exact Option.map_map ..
  | transfer k =>
    exact (congrArg (Option.map TransferRing.ring) (transferRing?_modifyTransfer s k fun t => { t with cso := c })).trans
      (Option.map_map ..)

/-! ### The lock beside the cursor and the flag -/

/-- Moving the cursor leaves the lock. -/
theorem lockFree_moveIndex {s : State} {r : RingId} (h : LockFree s r) (i : Fin 16) : LockFree (s.moveIndex r i) r := by
  cases r with
  | transfer k =>
    have hmoved := transferRing?_modifyTransfer s k fun t => { t with ring := { t.ring with index := i } }
    exact ((congrArg (Option.map TransferRing.lock) hmoved).trans (Option.map_map ..)).trans h
  | command | event | bare k => trivial

/-- Writing the flag leaves the lock. -/
theorem lockFree_setCso {s : State} {o : RingOwner} (h : LockFree s (ownerRing o)) (c : Bool) :
    LockFree (s.setCso o c) (ownerRing o) := by
  cases o with
  | transfer k =>
    have hset := transferRing?_modifyTransfer s k fun t => { t with cso := c }
    exact ((congrArg (Option.map TransferRing.lock) hset).trans (Option.map_map ..)).trans h
  | command => trivial

/-- Taking the lock leaves the flag. -/
theorem cso?_held {s : State} {o : RingOwner} {c : Bool} (h : s.cso? o = some c) :
    (held (ownerRing o) s).cso? o = some c := by
  cases o with
  | transfer k =>
    obtain ⟨t, ht, rfl⟩ := Option.map_eq_some_iff.1 h
    exact congrArg (Option.map TransferRing.cso) (transferRing?_setLock ht (.held s.agent))
  | command => exact h

/-- Taking the lock and moving the cursor touch fields of their own. -/
theorem moveIndex_held (s : State) (r : RingId) (i : Fin 16) :
    (held r s).moveIndex r i = held r (s.moveIndex r i) := by
  cases r with
  | transfer k =>
    simp [held, State.moveIndex, State.setIndex, setLock_ring, State.modifyTransfer, State.agent,
      List.modify_modify_eq, Function.comp_def]
  | command | event | bare k => rfl

/-- So do taking the lock and writing the flag. -/
theorem setCso_held (s : State) (o : RingOwner) (c : Bool) :
    (held (ownerRing o) s).setCso o c = held (ownerRing o) (s.setCso o c) := by
  cases o with
  | transfer k =>
    simp [ownerRing, held, State.setCso, setLock_ring, State.modifyTransfer, State.agent, List.modify_modify_eq,
      Function.comp_def]
  | command => rfl

/-- Taking a free lock, moving the cursor and giving the lock back moves the cursor. -/
theorem released_moveIndex {s : State} {r : RingId} (h : LockFree s r) (i : Fin 16) (m : Memory) (tr : List Access) :
    released r { (held r s).moveIndex r i with mem := m, trace := tr } =
      { s.moveIndex r i with mem := m, trace := tr } := by
  rw [moveIndex_held, released_held_withMem (lockFree_moveIndex h i)]

theorem released_moveIndex_withTrace {s : State} {r : RingId} (h : LockFree s r) (i : Fin 16) (tr : List Access) :
    released r { (held r s).moveIndex r i with trace := tr } = { s.moveIndex r i with trace := tr } := by
  rw [moveIndex_held, released_held_withTrace (lockFree_moveIndex h i)]

/-- Likewise, where the flag is written too. -/
theorem released_setCso {s : State} {o : RingOwner} (h : LockFree s (ownerRing o)) (i : Fin 16) (c : Bool) (m : Memory)
    (tr : List Access) :
    released (ownerRing o) { ((held (ownerRing o) s).moveIndex (ownerRing o) i).setCso o c with mem := m, trace := tr } =
      { (s.moveIndex (ownerRing o) i).setCso o c with mem := m, trace := tr } := by
  rw [moveIndex_held, setCso_held, released_held_withMem (lockFree_setCso (lockFree_moveIndex h i) c)]

/-! ### Indices outside the ring (R191, R305) -/

/-- Settles O13: every one of them asks for the slot's address before anything else. -/
theorem ringIndexOutOfRangeIsFatal : Obligations.RingIndexOutOfRangeIsFatal := by
  unfold Obligations.RingIndexOutOfRangeIsFatal
  intro r b i c x s hs hr hfree hi
  have fatal (op : Instr) (f : Addr → Prog) := runOp_atSlot_fatal hs hr hfree op hi f
  have accessor (op : Instr) (f : Trb → Result) (g : Addr → (Result → Prog) → Prog) :
      runOp op (ofTrb (.slot r i) f g) s = .next (raiseFatal .ringIndex (held r s)) :=
    fatal op fun a => g a fun res => unlockRing r (.ret res)
  have length (l : Layout) (op : Instr) :
      runOp op (progTransferLength l (.slot r i)) s = .next (raiseFatal .ringIndex (held r s)) := by
    rw [progTransferLength]
    exact fatal op _
  simp only [List.forall_mem_cons]
  exact ⟨fatal _ _, fatal _ _, fatal _ _, fatal _ _, fatal _ _, accessor _ _ _, accessor _ _ _, accessor _ _ _,
    accessor _ _ _, accessor _ _ _, accessor _ _ _, length _ _, accessor _ _ _, List.forall_mem_nil _⟩

/-! ### A new ring (R190) -/

/-- `TrbRing::new`, where the allocator's answer is admissible. -/
theorem exec_trbRingNew {place : RingPlace} {s : State} (hs : Unmarked s) (hplace : placeOk place s = true)
    (h : admissible s 256 4096 s.draw.1 = true) :
    exec (.trbRingNew place) s =
      .next ((installRing place s.draw.1 (s.withBlock 256 .ring)).finish (.region s.draw.1 256)) :=
  runOp_ret hs.1 hs.2
    (((comes_require hplace _ _).trans (comes_allocate_of_admissible h .ring _)).trans (comes_update _ _ _)) _

/-- The block of a new ring reads 0, and every other byte as before (R292). -/
theorem zeroed_clear {m : Memory} (hm : m.wf = true) (p : Addr) (n : Nat) :
    (∀ x, (x < p.toNat ∨ p.toNat + n ≤ x) → (m.clear p.toNat n).read x = m.read x) ∧
      ∀ x, p.toNat ≤ x → x < p.toNat + n → (m.clear p.toNat n).read x = 0 := by
  have hread := Memory.read_clear hm p.toNat n
  exact ⟨fun x hx => (hread x).trans (if_neg (by omega)), fun x hlo hhi => (hread x).trans (if_pos ⟨hlo, hhi⟩)⟩

theorem installRing_bare_finish (k : Nat) (p : Addr) (r : Result) (s : State) :
    (installRing (.bare k) p s).finish r =
      { freeAllocs (ownedBlocks (.ring (.bare k)) s) (s.finish r) with
        bareRings := putAt s.bareRings k { phys := p, index := 0 } } := by
  rw [freeAllocs_finish]
  rfl

theorem installRing_event_finish (p : Addr) (r : Result) (s : State) :
    (installRing .event p s).finish r =
      { freeAllocs (ownedBlocks (.ring .event) s) (s.finish r) with
        eventRing := some { ring := { phys := p, index := 0 }, cso := true, unread := 0 } } := by
  rw [freeAllocs_finish]
  rfl

/-- Settles O23: the block is made, then the ring takes its place. -/
theorem trbRingNewMakesAnEmptyRing : Obligations.TrbRingNewMakesAnEmptyRing := by
  unfold Obligations.TrbRingNewMakesAnEmptyRing
  intro s hs hm h
  have hzeroed := zeroed_clear hm s.draw.1 256
  refine ⟨fun k hk => ⟨_, exec_trbRingNew hs (decide_eq_true hk) h, hzeroed, ?bare⟩,
    ⟨_, exec_trbRingNew hs rfl h, hzeroed, ?event⟩⟩
  case bare =>
    rw [installRing_bare_finish]
    rfl
  case event =>
    rw [installRing_event_finish]
    rfl

/-! ### The whole ring (R194, R197) -/

/-- Settles O27: a ring with no owner has no lock, and its cycle bits are cleared one after another. -/
theorem ringResetClearsCycleBits : Obligations.RingResetClearsCycleBits := by
  unfold Obligations.RingResetClearsCycleBits
  intro k b s hs hr hp hm
  obtain ⟨tr, hrun⟩ := comes_resetRing hr (.ret .unit)
  have houtside := fun x hx => read_clearedFrom_outside hp (x := x) hx 16 0 hm (by decide)
  have hslots := fun j (hj : j < 16) => (slotTrb_clearedFrom hp hj 16 0 hm (by decide)).trans (if_pos (by omega))
  generalize clearedFrom b.phys 16 0 s.mem = m at hrun houtside hslots
  exact ⟨_, runOp_ret hs.1 hs.2 hrun (.trbRingReset k), houtside, hslots, ring?_setIndex hr 0, rfl⟩

/-- The Link record of R107 with a cycle bit. -/
theorem linkTrb_withCycle (base : Addr) (c : Bool) :
    { linkTrb base with control := withCycle (linkTrb base).control c } = linkRecord base c := by
  have hcontrol : typeBits 6 ||| tcBit = 0x1802 := by decide
  rw [linkRecord, ← hcontrol]
  rfl

/-- `set_link_trb()` at a ring's base (R197). -/
theorem comes_storeLink {base : Addr} (hp : base.toNat + 256 ≤ 2 ^ 64) (k : Prog) (s : State) :
    ∃ tr, Comes (storeLink base k) s k
      { s with mem := putTrb s.mem (slotAt base 15) (linkRecord base (slotCycle s.mem base 15)), trace := tr } := by
  have hslot := slotAt_toNat hp (i := 15) (by decide)
  have hstore := comes_storeTrb (a := slotAt base 15) (by omega) (linkTrb base) k s
  rwa [linkTrb_withCycle] at hstore

/-- An operation on a ring under its lock that stores to `n` bytes from `at_` on. -/
theorem stored_lockRing {r : RingId} {b : RingBuf} {s : State} (hs : Unmarked s) (hr : s.ring? r = some b)
    (hfree : LockFree s r) (op : Instr) {f : RingBuf → Prog} {res : Result} {m : Memory} {at_ n : Nat}
    (h : ∃ tr, Comes (f b) (held r s) (unlockRing r (.ret res)) { held r s with mem := m, trace := tr })
    (hm : ∀ x, (x < at_ ∨ at_ + n ≤ x) → m.read x = s.mem.read x) :
    ∃ u, runOp op (lockRing r (getRing r f)) s = .next u ∧ Stored s u res at_ n ∧ u.mem = m := by
  obtain ⟨tr, hstore⟩ := h
  have hring := (comes_lockRing hfree _).trans (comes_getRing (ring?_held hr) f)
  have hrun := runOp_unlock hs (hring.trans hstore) op
  rw [released_held_withMem hfree] at hrun
  exact ⟨_, hrun, ⟨hm, rfl⟩, rfl⟩

/-- Settles O28: the record is stored under the ring's lock, with the cycle bit that stands. -/
theorem setLinkTrbInstallsTheLink : Obligations.SetLinkTrbInstallsTheLink := by
  unfold Obligations.SetLinkTrbInstallsTheLink
  intro r b s hs hr hp hfree hm
  have hplaced : b.phys.toNat + 256 ≤ 2 ^ 64 := hp
  have hslot := slotAt_toNat hplaced (i := 15) (by decide)
  have hstore := comes_storeLink hp (unlockRing r (.ret .unit)) (held r s)
  rw [held_mem] at hstore
  obtain ⟨u, hexec, hstored, hmem⟩ := stored_lockRing hs hr hfree (.setLinkTrb r)
    (f := fun b => storeLink b.phys (unlockRing r (.ret .unit))) hstore
    fun x hx => read_putTrb_outside hm (by omega) _ (hslot ▸ hx)
  refine ⟨u, hexec, hstored, ?_⟩
  rw [hmem, slotTrb_putTrb hm hp (by decide) (by decide), if_pos rfl]

end Sys2Proof.Machine
end

section
/-! SUPPORT. The two advances of a ring and the passing of its Link slot, with the accesses they make (R80, R192, R193,
R198, R302, R303). -/

namespace Sys2Proof.Machine

open Sys2Proof

/-! ### Accesses of a control word, in their order (R80) -/

/-- Reading the cycle bit of slot `i` is one access. -/
theorem comes_readCycle_inOrder (base : Addr) (i : Nat) (k : Word64 → Prog) (s : State) :
    ∃ tr v, v.getLsbD 0 = slotCycle s.mem base i ∧
      Comes (readBitsAt (.dma (controlAt base i)) 4 0 1 k) s (k v) { s with trace := tr } ∧
      tr.map Access.seen = (s.agent, .read, .dma (controlAt base i), 4) :: s.trace.map Access.seen := by
  have hread := comes_readBitsAt_once (s := s) (n := 4) (shift := 0) (width := 1) nofun (by decide)
    (controlAt base i) k
  refine ⟨_, _, ?_, hread, rfl⟩
  rw [readWord_control, readSpan_cycle]
  rfl

/-- Writing the cycle bit of slot `i` is a read and a write. -/
theorem comes_writeCycle_inOrder (base : Addr) (i : Nat) (b : Bool) (k : Prog) (s : State) :
    ∃ tr, Comes (writeBitsAt (.dma (controlAt base i)) 4 0 1 (bit b) k) s k
        { s with mem := putCycle s.mem base i b, trace := tr } ∧
      tr.map Access.seen =
        (s.agent, .write, .dma (controlAt base i), 4) :: (s.agent, .read, .dma (controlAt base i), 4) ::
          s.trace.map Access.seen := by
  have hread := comes_readWord_once (s := s) (n := 4) nofun (controlAt base i) fun old =>
    writeWord (.dma (controlAt base i)) 4 (writeSpan (8 * 4) 0 1 old (bit b)) k
  rw [readWord_control, writeSpan_cycle] at hread
  have hwrite := hread.trans (comes_writeWord_once (n := 4) nofun (controlAt base i)
    ((withCycle (slotTrb s.mem base i).control b).setWidth 64) k)
  exact ⟨_, hwrite, rfl⟩

/-! ### The advances -/

section

variable {s : State} {r : RingId} {b : RingBuf} (hr : s.ring? r = some b) {c : Bool}

include hr

/-- `advance_index` reads the control word at the cursor, then hands the slot over and moves on, unless the slot already
holds the new cycle bit (R192, R302). -/
theorem comes_advance_read (k : Prog) :
    ∃ tr, Comes (advance r c k) s
        (if slotCycle s.mem b.phys b.index.val = c then .fatal .cycleUnchanged
        else
          writeBitsAt (.dma (controlAt b.phys b.index.val)) 4 0 1 (bit c)
            (update (fun s => s.moveIndex r (b.index + 1)) k))
        { s with trace := tr } ∧
      tr.map Access.seen =
        (s.agent, .read, .dma (controlAt b.phys b.index.val), 4) :: s.trace.map Access.seen := by
  obtain ⟨tr, v, hv, hread, htrace⟩ := comes_readCycle_inOrder b.phys b.index.val
    (fun v =>
      if v.getLsbD 0 = c then .fatal .cycleUnchanged
      else
        writeBitsAt (.dma (controlAt b.phys b.index.val)) 4 0 1 (bit c)
          (update (fun s => s.moveIndex r (b.index + 1)) k)) s
  rw [hv] at hread
  exact ⟨tr, (comes_getRing hr _).trans hread, htrace⟩

/-- `advance_index` hands the slot over by a read and a write (R192). -/
theorem comes_advance_inOrder (hc : slotCycle s.mem b.phys b.index.val ≠ c) (k : Prog) :
    ∃ tr, Comes (advance r c k) s k
        { s.moveIndex r (b.index + 1) with mem := putCycle s.mem b.phys b.index.val c, trace := tr } ∧
      tr.map Access.seen =
        (s.agent, .write, .dma (controlAt b.phys b.index.val), 4) ::
          (s.agent, .read, .dma (controlAt b.phys b.index.val), 4) ::
            (s.agent, .read, .dma (controlAt b.phys b.index.val), 4) :: s.trace.map Access.seen := by
  obtain ⟨tr, hread, htrace⟩ := comes_advance_read hr (c := c) k
  rw [if_neg hc] at hread
  obtain ⟨tr', hwrite, htrace'⟩ := comes_writeCycle_inOrder b.phys b.index.val c
    (update (fun s => s.moveIndex r (b.index + 1)) k) { s with trace := tr }
  exact ⟨tr', (hread.trans hwrite).trans (comes_update _ k _), htrace'.trans (by rw [htrace]; rfl)⟩

/-- `advance_index_notoggle` reads the control word at the cursor, and moves on if its cycle bit is ours (R193, R303). -/
theorem comes_advanceNotoggle_read (k : Prog) :
    ∃ tr, Comes (advanceNotoggle r c k) s
        (if slotCycle s.mem b.phys b.index.val = c then update (fun s => s.moveIndex r (b.index + 1)) k
        else .fatal .cycleMismatch)
        { s with trace := tr } ∧
      tr.map Access.seen =
        (s.agent, .read, .dma (controlAt b.phys b.index.val), 4) :: s.trace.map Access.seen := by
  obtain ⟨tr, v, hv, hread, htrace⟩ := comes_readCycle_inOrder b.phys b.index.val
    (fun v => if v.getLsbD 0 = c then update (fun s => s.moveIndex r (b.index + 1)) k else .fatal .cycleMismatch) s
  rw [hv] at hread
  exact ⟨tr, (comes_getRing hr _).trans hread, htrace⟩

end

/-- An operation on a ring under its lock that has only read is fatal with the lock held (R300, R314). -/
theorem fatal_lockRing {r : RingId} {s : State} (hs : Unmarked s) (hfree : LockFree s r) {p : Prog} {code : FatalCode}
    {tr : List Access} (h : Comes p (held r s) (.fatal code) { held r s with trace := tr }) (op : Instr) :
    ∃ t, runOp op (lockRing r p) s = .next t ∧ Fatal s t code r ∧ t.trace = tr :=
  ⟨_, runOp_fatal hs.1 hs.2 ((comes_lockRing hfree p).trans h) op, rfl, rfl⟩

/-- Handing slot `i` over changes its cycle bit and nothing else (R192). -/
theorem handedOver {m : Memory} (hm : m.wf = true) {b : RingBuf} (hp : b.Placed) (c : Bool) :
    (∀ x, (x < b.phys.toNat + 16 * b.index.val + 12 ∨ b.phys.toNat + 16 * b.index.val + 12 + 4 ≤ x) →
        (putCycle m b.phys b.index.val c).read x = m.read x) ∧
      slotTrb (putCycle m b.phys b.index.val c) b.phys b.index.val =
        { slotTrb m b.phys b.index.val with control := withCycle (slotTrb m b.phys b.index.val).control c } :=
  ⟨fun _ hx => read_putCycle_outside hm hp b.index.isLt c hx,
    (slotTrb_putCycle hm hp b.index.isLt b.index.isLt c).trans (if_pos rfl)⟩

/-- The ring after its cursor has moved on, at the end of the operation. -/
theorem ring?_advanced {s : State} {r : RingId} {b : RingBuf} (hr : s.ring? r = some b) (i : Fin 16) (m : Memory)
    (tr : List Access) :
    (State.finish { s.moveIndex r i with mem := m, trace := tr } .unit).ring? r = some { b with index := i } := by
  rw [ring?_finish, ring?_withMem, ring?_moveIndex hr]

/-- Settles O25: under the lock, the slot's cycle bit decides between the hand-over and the fatal. -/
theorem advanceIndexHandsTheSlotOver : Obligations.AdvanceIndexHandsTheSlotOver := by
  unfold Obligations.AdvanceIndexHandsTheSlotOver
  intro r b c s hs hr hp hfree hm
  have hr' := ring?_held hr
  refine ⟨fun hc => ?moves, fun hc => ?fatal⟩
  case moves =>
    rw [← held_mem r s] at hc
    obtain ⟨tr, hadvance, htrace⟩ := comes_advance_inOrder hr' hc (unlockRing r (.ret .unit))
    have hrun := runOp_unlock hs ((comes_lockRing hfree _).trans hadvance) (.advanceIndex r c)
    rw [held_mem, released_moveIndex hfree] at hrun
    rw [held_agent, held_trace] at htrace
    obtain ⟨houtside, hslot⟩ := handedOver hm hp c
    generalize putCycle s.mem b.phys b.index.val c = m at hrun houtside hslot
    exact ⟨_, b.index + 1, hrun, Fin.val_add _ _, houtside, hslot,
      ring?_advanced hr _ m tr, htrace, rfl⟩
  case fatal =>
    obtain ⟨tr, hread, htrace⟩ := comes_advance_read hr' (c := c) (unlockRing r (.ret .unit))
    rw [if_pos (by rwa [held_mem])] at hread
    rw [held_agent, held_trace] at htrace
    obtain ⟨t, hexec, hfatal, rfl⟩ := fatal_lockRing hs hfree hread (.advanceIndex r c)
    exact ⟨t, hexec, hfatal, htrace⟩

/-- Settles O26: the one read decides between the move and the fatal. -/
theorem advanceIndexNotoggleWritesNothing : Obligations.AdvanceIndexNotoggleWritesNothing := by
  unfold Obligations.AdvanceIndexNotoggleWritesNothing
  intro r b c s hs hr hfree
  obtain ⟨tr, hread, htrace⟩ := comes_advanceNotoggle_read (ring?_held hr) (c := c) (unlockRing r (.ret .unit))
  rw [held_agent, held_trace] at htrace
  refine ⟨fun hc => ?moves, fun hc => ?fatal⟩
  case moves =>
    rw [if_pos (by rwa [held_mem])] at hread
    have hmove : Comes _ (held r s) _ { (held r s).moveIndex r (b.index + 1) with trace := tr } :=
      hread.trans (comes_update _ _ _)
    have hrun := runOp_unlock hs ((comes_lockRing hfree _).trans hmove) (.advanceIndexNotoggle r c)
    rw [released_moveIndex_withTrace hfree] at hrun
    exact ⟨_, b.index + 1, hrun, Fin.val_add _ _, ring?_advanced hr _ s.mem tr, htrace, rfl⟩
  case fatal =>
    rw [if_neg (by rwa [held_mem])] at hread
    obtain ⟨t, hexec, hfatal, rfl⟩ := fatal_lockRing hs hfree hread (.advanceIndexNotoggle r c)
    exact ⟨t, hexec, hfatal, htrace⟩

/-! ### The Link slot (R198) -/

/-- The type code of a Link, as an access answers it. -/
theorem setWidth_eq_six (code : BitVec 6) : code.setWidth 64 = (6 : Word64) ↔ code = 6 :=
  ⟨fun h => by rw [← setWidth_typeCode code, h]; rfl, fun h => by rw [h]; rfl⟩

section

variable {s : State} {o : RingOwner} {b : RingBuf} (hr : s.ring? (ownerRing o) = some b)

include hr

/-- `skip_link` reads the type of the record at the cursor. -/
theorem comes_passLink_type (k : Prog) :
    ∃ tr, Comes (passLink o k) s
      (if trbTypeOf (slotTrb s.mem b.phys b.index.val) = 6 then
        getCso o fun c => advance (ownerRing o) (!c) (update (fun s => s.flipCso o) k)
      else k)
      { s with trace := tr } := by
  obtain ⟨tr, hread⟩ := comes_readType b.phys b.index.val
    (fun ty =>
      if ty = 6 then
        getCso o fun c => advance (ownerRing o) (!c) (update (fun s => s.flipCso o) k)
      else k) s
  simp only [setWidth_eq_six] at hread
  exact ⟨tr, (comes_getRing hr _).trans hread⟩

/-- On a record that is no Link it does nothing. -/
theorem comes_passLink_of_other (hty : trbTypeOf (slotTrb s.mem b.phys b.index.val) ≠ 6) (k : Prog) :
    ∃ tr, Comes (passLink o k) s k { s with trace := tr } := by
  have htype := comes_passLink_type hr k
  rwa [if_neg hty] at htype

/-- A Link slot that is still software's is handed over, and the flag flips. -/
theorem comes_passLink_of_link {c : Bool} (hcso : s.cso? o = some c)
    (hty : trbTypeOf (slotTrb s.mem b.phys b.index.val) = 6) (hc : slotCycle s.mem b.phys b.index.val = c) (k : Prog) :
    ∃ tr, Comes (passLink o k) s k
      { (s.moveIndex (ownerRing o) (b.index + 1)).setCso o (!c) with
        mem := putCycle s.mem b.phys b.index.val (!c)
        trace := tr } := by
  obtain ⟨tr, htype⟩ := comes_passLink_type hr k
  rw [if_pos hty] at htype
  have hflag := htype.trans (comes_getCso (s := { s with trace := tr }) ((cso?_withMem s o s.mem tr).trans hcso) _)
  obtain ⟨tr', hadvance⟩ := comes_advance (s := { s with trace := tr }) (r := ownerRing o) (b := b)
    ((ring?_withMem s _ s.mem tr).trans hr) (c := !c) (by simp [hc]) (update (fun s => s.flipCso o) k)
  have hmoved : State.cso? { s.moveIndex (ownerRing o) (b.index + 1) with
      mem := putCycle s.mem b.phys b.index.val (!c), trace := tr' } o = some c :=
    (cso?_withMem _ o _ tr').trans ((cso?_moveIndex s o _).trans hcso)
  have hflip := comes_update (fun s => s.flipCso o) k { s.moveIndex (ownerRing o) (b.index + 1) with
      mem := putCycle s.mem b.phys b.index.val (!c), trace := tr' }
  rw [State.flipCso_of hmoved] at hflip
  exact ⟨tr', (hflag.trans hadvance).trans hflip⟩

end

/-- Settles O29: under the lock, the type at the cursor decides. -/
theorem skipLinkPassesTheLinkSlot : Obligations.SkipLinkPassesTheLinkSlot := by
  unfold Obligations.SkipLinkPassesTheLinkSlot
  intro o b c s hs hr hcso hp hfree hm
  have hr' := ring?_held hr
  refine ⟨fun hty hc => ?link, fun hty => ?other⟩
  case link =>
    rw [← held_mem (ownerRing o) s] at hty hc
    obtain ⟨tr, hpass⟩ := comes_passLink_of_link hr' (cso?_held hcso) hty hc (unlockRing (ownerRing o) (.ret .unit))
    have hrun := runOp_unlock hs ((comes_lockRing hfree _).trans hpass) (.skipLink o)
    rw [held_mem, released_setCso hfree] at hrun
    obtain ⟨houtside, hslot⟩ := handedOver hm hp !c
    generalize putCycle s.mem b.phys b.index.val (!c) = m at hrun houtside hslot
    refine ⟨_, b.index + 1, hrun, Fin.val_add _ _, houtside, hslot, ?ring, ?flag, rfl⟩
    case ring => rw [ring?_finish, ring?_withMem, ring?_setCso, ring?_moveIndex hr]
    case flag => rw [cso?_finish, cso?_withMem, cso?_setCso ((cso?_moveIndex s o _).trans hcso)]
  case other =>
    rw [← held_mem (ownerRing o) s] at hty
    obtain ⟨tr, hpass⟩ := comes_passLink_of_other hr' hty (unlockRing (ownerRing o) (.ret .unit))
    have hrun := runOp_unlock hs ((comes_lockRing hfree _).trans hpass) (.skipLink o)
    rw [released_held_withTrace hfree] at hrun
    exact ⟨_, hrun, rfl⟩

end Sys2Proof.Machine
end

section
/-! SUPPORT. `push` of a Command Ring between operations (R199, R200, R214, R216): the slot it publishes, the Link it
passes, and the ring after any number of pushes. -/

namespace Sys2Proof.Machine

open Sys2Proof

/-! ### Records with another cycle bit (R165) -/

/-- The cycle bit set last is the one that stands. -/
theorem withCycle_withCycle (control : Word32) (c c' : Bool) :
    withCycle (withCycle control c) c' = withCycle control c' := by
  apply BitVec.eq_of_getLsbD_eq
  intro i hi
  simp only [withCycle, BitVec.getLsbD_or, BitVec.getLsbD_and, BitVec.getLsbD_not, BitVec.getLsbD_setWidth]
  cases i <;> simp

/-- The cycle bit is no part of the type. -/
theorem typeField_withCycle (control : Word32) (c : Bool) : typeField (withCycle control c) = typeField control := by
  apply BitVec.eq_of_getLsbD_eq
  intro i hi
  simp only [typeField, withCycle, BitVec.getLsbD_extractLsb', BitVec.getLsbD_or, BitVec.getLsbD_and, BitVec.getLsbD_not,
    BitVec.getLsbD_setWidth]
  simp [show 10 + i < 32 by omega]

theorem trbTypeOf_linkRecord (base : Addr) (c : Bool) : trbTypeOf (linkRecord base c) = 6 :=
  (typeField_withCycle 0x1802 c).trans rfl

theorem trbCycle_linkRecord (base : Addr) (c : Bool) : trbCycle (linkRecord base c) = c := trbCycle_withCycle _ _ _

theorem linkRecord_withCycle (base : Addr) (c c' : Bool) :
    { linkRecord base c with control := withCycle (linkRecord base c).control c' } = linkRecord base c' :=
  congrArg (fun w => { linkTrb base with control := w }) (withCycle_withCycle 0x1802 c c')

/-! ### The slot published (R176, R214) -/

/-- The memory after `x` has been stored into slot `i`, whose cycle bit is `c`, and the slot been handed over. -/
def published (m : Memory) (base : Addr) (i : Nat) (x : Trb) (c : Bool) : Memory :=
  putCycle (putTrb m (slotAt base i) { x with control := withCycle x.control c }) base i (!c)

section

variable {m : Memory} (hm : m.wf = true) {base : Addr}

include hm

theorem published_wf (i : Nat) (x : Trb) (c : Bool) : (published m base i x c).wf = true :=
  putCycle_wf (putTrb_wf hm _ _) _ _ _

variable (hp : base.toNat + 256 ≤ 2 ^ 64) {i j : Nat} (hi : i < 16) (hj : j < 16) (x : Trb) (c : Bool)

include hp hi hj

/-- The slot holds the record with the new cycle bit, and every other slot what it held. -/
theorem slotTrb_published :
    slotTrb (published m base i x c) base j =
      if j = i then { x with control := withCycle x.control (!c) } else slotTrb m base j := by
  rw [published, slotTrb_putCycle (putTrb_wf hm _ _) hp hi hj, slotTrb_putTrb hm hp hi hi, slotTrb_putTrb hm hp hi hj]
  split
  · simp [withCycle_withCycle]
  · rfl

end

/-! ### The ring after a push (R214, R216) -/

theorem nextUsable_lt (i : Nat) : nextUsable i < 16 := by
  unfold nextUsable
  omega

/-- The cursor moves to the next usable slot, and behind the last one the flag flips. -/
def CommandRing.pushed (c : CommandRing) : CommandRing where
  ring := { c.ring with index := ⟨nextUsable c.ring.index.val, nextUsable_lt _⟩ }
  cso := if c.ring.index.val = 14 then !c.cso else c.cso

section

variable {c : CommandRing}

theorem pushed_of_last (h : c.ring.index.val = 14) :
    c.pushed = { ring := { c.ring with index := 0 }, cso := !c.cso } := by
  simp [CommandRing.pushed, h, nextUsable]

theorem index_succ (h : c.ring.index.val ≤ 14) : (c.ring.index + 1).val = c.ring.index.val + 1 :=
  (Fin.val_add _ _).trans (Nat.mod_eq_of_lt (Nat.lt_of_le_of_lt (Nat.succ_le_succ h) (by decide)))

theorem pushed_of_lt (h : c.ring.index.val < 14) :
    c.pushed = { c with ring := { c.ring with index := c.ring.index + 1 } } := by
  have hindex : (⟨nextUsable c.ring.index.val, nextUsable_lt _⟩ : Fin 16) = c.ring.index + 1 :=
    Fin.ext ((Nat.mod_eq_of_lt (by omega)).trans (index_succ (by omega)).symm)
  rw [CommandRing.pushed, hindex, if_neg (by omega)]

end

/-- The memory after `x` has been pushed: behind the last usable slot the Link is handed over too. -/
def pushedMem (m : Memory) (c : CommandRing) (x : Trb) : Memory :=
  let stored := published m c.ring.phys c.ring.index.val x c.cso
  if c.ring.index.val = 14 then putCycle stored c.ring.phys 15 (!c.cso) else stored

theorem pushedMem_of_last {c : CommandRing} (h : c.ring.index.val = 14) (m : Memory) (x : Trb) :
    pushedMem m c x = putCycle (published m c.ring.phys c.ring.index.val x c.cso) c.ring.phys 15 (!c.cso) := if_pos h

theorem pushedMem_of_ne {c : CommandRing} (h : c.ring.index.val ≠ 14) (m : Memory) (x : Trb) :
    pushedMem m c x = published m c.ring.phys c.ring.index.val x c.cso := if_neg h

section

variable {m : Memory} (hm : m.wf = true) {c : CommandRing} (x : Trb)

include hm

theorem pushedMem_wf : (pushedMem m c x).wf = true := by
  unfold pushedMem
  split
  · exact putCycle_wf (published_wf hm _ x _) _ _ _
  · exact published_wf hm _ x _

variable (hring : ProducerRing m c.ring c.cso)

include hring

/-- The usable slots after a push. -/
theorem slotTrb_pushedMem {j : Nat} (hj : j < 15) :
    slotTrb (pushedMem m c x) c.ring.phys j =
      if j = c.ring.index.val then { x with control := withCycle x.control (!c.cso) }
      else slotTrb m c.ring.phys j := by
  obtain ⟨hp, -⟩ := hring
  have hstored := slotTrb_published hm hp c.ring.index.isLt (show j < 16 by omega) x c.cso
  unfold pushedMem
  split
  · rw [slotTrb_putCycle (published_wf hm _ x _) hp (by decide) (by omega), if_neg (by omega), hstored]
  · exact hstored

/-- The Link slot after a push. -/
theorem slotTrb_pushedMem_link : slotTrb (pushedMem m c x) c.ring.phys 15 = linkRecord c.ring.phys c.pushed.cso := by
  obtain ⟨hp, hlast, -, -, hlink⟩ := hring
  have hstored := slotTrb_published hm hp c.ring.index.isLt (show 15 < 16 by decide) x c.cso
  rw [if_neg (by omega), hlink] at hstored
  unfold pushedMem CommandRing.pushed
  split
  · rw [slotTrb_putCycle (published_wf hm _ x _) hp (by decide) (by decide), if_pos rfl, hstored, linkRecord_withCycle]
  · exact hstored

/-- What holds of the ring between operations holds again, unless a Link record was pushed (R216). -/
theorem producerRing_pushed (hx : trbTypeOf x ≠ 6) :
    ProducerRing (pushedMem m c x) c.pushed.ring c.pushed.cso := by
  have hslots {j : Nat} (hj : j < 15) := slotTrb_pushedMem hm x hring hj
  have hlink := slotTrb_pushedMem_link hm x hring
  obtain ⟨hp, hlast, hcycles, htypes, -⟩ := hring
  refine ⟨hp, ?cursor, fun j hj => ?cycles, fun j hj => ?types, hlink⟩
  case cursor =>
    have hnext : nextUsable c.ring.index.val ≤ 14 := Nat.le_of_lt_succ (Nat.mod_lt _ (by decide))
    exact hnext
  case cycles =>
    have hcycle : slotCycle (pushedMem m c x) c.ring.phys j = if j ≤ c.ring.index.val then !c.cso else c.cso := by
      rw [slotCycle, hslots hj]
      split
      · next hji => rw [trbCycle_withCycle, if_pos (by omega)]
      · next hji => exact (hcycles j hj).trans (if_congr (by omega) rfl rfl)
    refine hcycle.trans ?_
    by_cases h14 : c.ring.index.val = 14
    · rw [pushed_of_last h14, if_pos (by omega)]
      exact (if_neg (Nat.not_lt_zero j)).symm
    · rw [pushed_of_lt (by omega)]
      refine if_congr ?_ rfl rfl
      rw [index_succ hlast, Nat.lt_succ_iff]
  case types =>
    show trbTypeOf (slotTrb (pushedMem m c x) c.ring.phys j) ≠ 6
    rw [hslots hj]
    split
    · rw [trbTypeOf, typeField_withCycle]
      exact hx
    · exact htypes j hj

end

/-- The cycle bit of every slot of a ring between operations. -/
theorem slotCycle_of_producerRing {m : Memory} {b : RingBuf} {c : Bool} (h : ProducerRing m b c) {j : Nat} (hj : j < 16) :
    slotCycle m b.phys j = if j < b.index.val then !c else c := by
  obtain ⟨-, hlast, hcycles, -, hlink⟩ := h
  by_cases h15 : j = 15
  · rw [h15, slotCycle, hlink, trbCycle_linkRecord, if_neg (by omega)]
  · exact hcycles j (by omega)

/-! ### The operation -/

/-- What `push` of `x` does with the ring as it stands (R214). -/
def pushAt (x : Trb) (b : RingBuf) : Prog :=
  storeTrb (slotAt b.phys b.index.val) x
    (getCso .command fun c => advance .command (!c) (passLink .command (.ret (.word (slotAt b.phys b.index.val)))))

theorem progPush_eq (x : Trb) : progPush x = precise (getRing .command (pushAt x)) := rfl

section

variable {s : State} {c : CommandRing} (hc : s.cmdRing = some c)

include hc

theorem moveIndex_command (i : Fin 16) :
    s.moveIndex .command i = { s with cmdRing := some { c with ring := { c.ring with index := i } } } := by
  simp [State.moveIndex, State.setIndex, hc]

theorem setCso_command (b : Bool) : s.setCso .command b = { s with cmdRing := some { c with cso := b } } := by
  simp [State.setCso, hc]

/-- `skip_link` behind the last usable slot: the Link is handed over, the cursor wraps and the flag flips. -/
theorem comes_passLink_last (h15 : c.ring.index.val = 15)
    (hlink : slotTrb s.mem c.ring.phys 15 = linkRecord c.ring.phys c.cso) (k : Prog) :
    ∃ tr, Comes (passLink .command k) s k
      { s with
        mem := putCycle s.mem c.ring.phys 15 (!c.cso)
        cmdRing := some { ring := { c.ring with index := c.ring.index + 1 }, cso := !c.cso }
        trace := tr } := by
  rw [← h15] at hlink
  have hty : trbTypeOf (slotTrb s.mem c.ring.phys c.ring.index.val) = 6 := by rw [hlink, trbTypeOf_linkRecord]
  have hcycle : slotCycle s.mem c.ring.phys c.ring.index.val = c.cso := by rw [slotCycle, hlink, trbCycle_linkRecord]
  obtain ⟨tr, hpass⟩ := comes_passLink_of_link (o := .command) (ring?_command hc) (cso?_command hc) hty hcycle k
  rw [show ownerRing .command = .command from rfl, moveIndex_command hc, setCso_command rfl, h15] at hpass
  exact ⟨tr, hpass⟩

end

/-- `push` behind its hand-over passes the Link, if the cursor has come to it (R198, R214). -/
theorem comes_pushLink {m : Memory} (hm : m.wf = true) {c : CommandRing} (hring : ProducerRing m c.ring c.cso) (x : Trb)
    {s : State} (hc : s.cmdRing = some { c with ring := { c.ring with index := c.ring.index + 1 } })
    (hmem : s.mem = published m c.ring.phys c.ring.index.val x c.cso) (k : Prog) :
    ∃ tr, Comes (passLink .command k) s k
      { s with mem := pushedMem m c x, cmdRing := some c.pushed, trace := tr } := by
  obtain ⟨hp, hlast, -, htypes, hlink⟩ := hring
  have hslots {j : Nat} (hj : j < 16) := slotTrb_published hm hp c.ring.index.isLt hj x c.cso
  have hnext := index_succ hlast
  by_cases h14 : c.ring.index.val = 14
  case pos =>
    have hstands := hslots (j := 15) (by decide)
    rw [if_neg (by omega), hlink, ← hmem] at hstands
    have hwraps : c.ring.index + 1 + 1 = 0 := (cursor_wraps_iff _).2 (by omega)
    rw [pushedMem_of_last h14, pushed_of_last h14, ← hwraps, ← hmem]
    exact comes_passLink_last hc (hnext.trans (by omega)) hstands k
  case neg =>
    have hty := htypes (c.ring.index.val + 1) (by omega)
    have hstands := hslots (j := c.ring.index.val + 1) (by omega)
    rw [if_neg (by omega)] at hstands
    rw [← hstands, ← hnext, ← hmem] at hty
    rw [pushedMem_of_ne h14, pushed_of_lt (by omega), ← hmem, ← hc]
    exact comes_passLink_of_other (o := .command) (ring?_command hc) hty k

section

variable {s : State} {c : CommandRing} (hc : s.cmdRing = some c) (hm : s.mem.wf = true)
  (hring : ProducerRing s.mem c.ring c.cso) (x : Trb)

include hc hm hring

/-- `push` up to the Link: the record is stored, and its slot handed over (R214). -/
theorem comes_publish (k : Prog) :
    ∃ tr, Comes
      (storeTrb (slotAt c.ring.phys c.ring.index.val) x (getCso .command fun b => advance .command (!b) k)) s k
      { s with
        mem := published s.mem c.ring.phys c.ring.index.val x c.cso
        cmdRing := some { c with ring := { c.ring with index := c.ring.index + 1 } }
        trace := tr } := by
  have hlt := c.ring.index.isLt
  have hcycle : slotCycle s.mem c.ring.phys c.ring.index.val = c.cso :=
    (slotCycle_of_producerRing hring hlt).trans (if_neg (lt_irrefl _))
  obtain ⟨hp, -⟩ := hring
  have hplaced : c.ring.phys.toNat + 256 ≤ 2 ^ 64 := hp
  have haddr := slotAt_toNat hplaced hlt
  obtain ⟨tr, hstore⟩ := comes_storeTrb (a := slotAt c.ring.phys c.ring.index.val) (by omega) x
    (getCso .command fun b => advance .command (!b) k) s
  have hold : trbCycle (s.mem.readTrb (slotAt c.ring.phys c.ring.index.val)) = c.cso := hcycle
  rw [hold] at hstore
  generalize hstored : putTrb s.mem (slotAt c.ring.phys c.ring.index.val)
    { x with control := withCycle x.control c.cso } = m at hstore
  have hkept : slotCycle m c.ring.phys c.ring.index.val = c.cso := by
    rw [← hstored, slotCycle, slotTrb_putTrb hm hp hlt hlt, if_pos rfl, trbCycle_withCycle]
  have hc' : ({ s with mem := m, trace := tr } : State).cmdRing = some c := hc
  obtain ⟨tr', hadvance⟩ := comes_advance (ring?_command hc') (c := !c.cso) (by simp [hkept]) k
  rw [moveIndex_command hc'] at hadvance
  subst hstored
  exact ⟨tr', (hstore.trans (comes_getCso (cso?_command hc') _)).trans hadvance⟩

/-- `push` between operations of the ring (R214). -/
theorem comes_push :
    ∃ tr, Comes (progPush x) s (.ret (.word (slotAt c.ring.phys c.ring.index.val)))
      { s with mem := pushedMem s.mem c x, cmdRing := some c.pushed, trace := tr } := by
  rw [progPush_eq]
  obtain ⟨tr, hpublish⟩ := comes_publish hc hm hring x
    (passLink .command (.ret (.word (slotAt c.ring.phys c.ring.index.val))))
  generalize hstored : published s.mem c.ring.phys c.ring.index.val x c.cso = m at hpublish
  obtain ⟨tr', hlink⟩ := comes_pushLink hm hring x
    (s := { s with
      mem := m
      cmdRing := some { c with ring := { c.ring with index := c.ring.index + 1 } }
      trace := tr }) rfl hstored.symm (.ret (.word (slotAt c.ring.phys c.ring.index.val)))
  have hread := comes_getRing (ring?_command hc) (pushAt x)
  exact ⟨tr', comes_precise ((hread.trans hpublish).trans hlink) rfl⟩

end

/-! ### Any number of pushes (R200) -/

/-- An unmarked state whose Command Ring is `c`, between operations. -/
structure PushReady (c : CommandRing) (s : State) : Prop where
  unmarked : Unmarked s
  wf : s.mem.wf = true
  stands : s.cmdRing = some c
  ring : ProducerRing s.mem c.ring c.cso

theorem exec_push {c : CommandRing} {s : State} (h : PushReady c s) {x : Trb} (hx : trbTypeOf x ≠ 6) :
    ∃ t, exec (.push x) s = .next t ∧ PushReady c.pushed t := by
  obtain ⟨tr, hpush⟩ := comes_push h.stands h.wf h.ring x
  exact ⟨_, runOp_ret h.unmarked.1 h.unmarked.2 hpush _, h.unmarked, pushedMem_wf h.wf x, rfl,
    producerRing_pushed h.wf x h.ring hx⟩

/-- Pushing a list of records one after another; `f` pushes one as long as the operations go on. -/
theorem foldl_push {f : Host.Outcome State Fault Refusal → Trb → Host.Outcome State Fault Refusal}
    (hf : ∀ u x, f (.next u) x = exec (.push x) u) :
    ∀ (xs : List Trb) {c : CommandRing} {s : State}, (∀ x ∈ xs, trbTypeOf x ≠ 6) → PushReady c s →
      ∃ t, xs.foldl f (.next s) = .next t ∧ PushReady (CommandRing.pushed^[xs.length] c) t
  | [], _, s, _, h => ⟨s, rfl, h⟩
  | x :: xs, _, s, hxs, h => by
    obtain ⟨u, hu, hready⟩ := exec_push h (hxs x List.mem_cons_self)
    obtain ⟨t, ht, hready'⟩ := foldl_push hf xs (fun y hy => hxs y (List.mem_cons_of_mem x hy)) hready
    exact ⟨t, by rw [List.foldl_cons, hf, hu, ht], hready'⟩

/-- The ring after `n` pushes: the cursor goes round the fifteen usable slots, and the flag flips each time round. -/
theorem pushed_iterate {c : CommandRing} (h : c.ring.index.val ≤ 14) (n : Nat) :
    (CommandRing.pushed^[n] c).ring.phys = c.ring.phys ∧
      (CommandRing.pushed^[n] c).ring.index.val = (c.ring.index.val + n) % 15 ∧
      (CommandRing.pushed^[n] c).cso = (c.cso ^^ decide ((c.ring.index.val + n) / 15 % 2 = 1)) := by
  induction n with
  | zero =>
    have hcursor : c.ring.index.val % 15 = c.ring.index.val := Nat.mod_eq_of_lt (by omega)
    have hlap : c.ring.index.val / 15 = 0 := Nat.div_eq_of_lt (by omega)
    simp [hcursor, hlap]
  | succ n ih =>
    obtain ⟨hphys, hcursor, hflag⟩ := ih
    rw [Function.iterate_succ_apply']
    generalize CommandRing.pushed^[n] c = d at hphys hcursor hflag
    refine ⟨hphys, ?cursor, ?flag⟩
    case cursor =>
      simp only [CommandRing.pushed, nextUsable, hcursor]
      omega
    case flag =>
      simp only [CommandRing.pushed, hcursor, hflag]
      by_cases hwrap : (c.ring.index.val + n) % 15 = 14
      · have hlap : (c.ring.index.val + (n + 1)) / 15 = (c.ring.index.val + n) / 15 + 1 := by omega
        rw [if_pos hwrap, hlap, ← Bool.xor_not]
        congr 1
        simp only [← decide_not, decide_eq_decide]
        omega
      · have hlap : (c.ring.index.val + (n + 1)) / 15 = (c.ring.index.val + n) / 15 := by omega
        rw [if_neg hwrap, hlap]

/-- Two laps bring the ring back (R200). -/
theorem pushed_iterate_thirty {c : CommandRing} (h : c.ring.index.val ≤ 14) : CommandRing.pushed^[30] c = c := by
  obtain ⟨hphys, hcursor, hflag⟩ := pushed_iterate h 30
  have hback : (c.ring.index.val + 30) % 15 = c.ring.index.val := by omega
  have hlaps : (c.ring.index.val + 30) / 15 = 2 := by omega
  rw [hback] at hcursor
  rw [hlaps] at hflag
  generalize CommandRing.pushed^[30] c = d at hphys hcursor hflag
  obtain ⟨⟨p, i⟩, b⟩ := d
  obtain rfl : p = c.ring.phys := hphys
  obtain rfl : i = c.ring.index := Fin.ext hcursor
  obtain rfl : b = c.cso := by simpa using hflag
  rfl

/-- Thirty pushes leave the ring, and the cycle bit of each of its slots, as they were (R200). -/
theorem thirty_pushes {f : Host.Outcome State Fault Refusal → Trb → Host.Outcome State Fault Refusal}
    (hf : ∀ u x, f (.next u) x = exec (.push x) u) {xs : List Trb} (hlength : xs.length = 30)
    (hxs : ∀ x ∈ xs, trbTypeOf x ≠ 6) {c : CommandRing} {s : State} (h : PushReady c s) :
    ∃ t, xs.foldl f (.next s) = .next t ∧ t.cmdRing = some c ∧
      ∀ j, j < 16 → slotCycle t.mem c.ring.phys j = slotCycle s.mem c.ring.phys j := by
  obtain ⟨-, hlast, -⟩ := h.ring
  obtain ⟨t, hrun, hready⟩ := foldl_push hf xs hxs h
  rw [hlength, pushed_iterate_thirty hlast] at hready
  refine ⟨t, hrun, hready.stands, fun j hj => ?_⟩
  rw [slotCycle_of_producerRing hready.ring hj, slotCycle_of_producerRing h.ring hj]

/-- Settles O33: each push leaves a ring between operations, whose cursor and flag say what every cycle bit is. -/
theorem thirtyPushesRestoreParity : Obligations.ThirtyPushesRestoreParity := by
  unfold Obligations.ThirtyPushesRestoreParity
  intro xs c s hlength hxs hs hm hc hring
  refine thirty_pushes ?_ hlength hxs ⟨hs, hm, hc, hring⟩
  exact fun _ _ => rfl

end Sys2Proof.Machine
end

section
/-! SUPPORT. The Command Ring as it is made and reset (R211, R212), and the bytes that `push` leaves as they were (R214). -/

namespace Sys2Proof.Machine

open Sys2Proof

/-! ### A new Command Ring (R211) -/

/-- A word whose bytes are 0 is 0 (R74). -/
theorem Memory.readWord_eq_zero {m : Memory} {a : Addr} {n : Nat} (h : ∀ i, i < n → m.read (a.toNat + i) = 0) :
    m.readWord a n = 0 := by
  have hbytes : (List.range n).map (fun i => m.read (a.toNat + i)) = List.replicate n 0 :=
    List.eq_replicate_iff.2 ⟨by simp, fun b hb => by
      obtain ⟨i, hi, rfl⟩ := List.mem_map.1 hb
      exact h i (List.mem_range.1 hi)⟩
  have hzero (k : Nat) : wordOf (List.replicate k 0) = 0 := by
    induction k with
    | zero => rfl
    | succ k ih => rw [List.replicate_succ, wordOf, ih]; rfl
  rw [Memory.readWord, hbytes, hzero]

/-- The memory after a Command Ring has been made at `p`: its block zeroed, the Link stored into slot 15. -/
def newRingMem (m : Memory) (p : Addr) : Memory :=
  putTrb (m.clear p.toNat 256) (slotAt p 15) (linkRecord p false)

section

variable {m : Memory} (hm : m.wf = true) {p : Addr} (hp : p.toNat + 256 ≤ 2 ^ 64)

include hm hp

/-- Every slot of a zeroed ring is the record of zeros (R292). -/
theorem slotTrb_clear {j : Nat} (hj : j < 16) :
    slotTrb (m.clear p.toNat 256) p j = { param := 0, status := 0, control := 0 } := by
  have hparam := slotAt_toNat hp hj
  have hstatus := slotAt_add_eight_toNat hp hj
  have hcontrol := slotAt_add_twelve_toNat hp hj
  have zero {a : Addr} {n : Nat} (hlo : p.toNat ≤ a.toNat) (hhi : a.toNat + n ≤ p.toNat + 256) :
      (m.clear p.toNat 256).readWord a n = 0 :=
    Memory.readWord_eq_zero fun i hi => (zeroed_clear hm p 256).2 _ (by omega) (by omega)
  rw [slotTrb, Memory.readTrb, zero (by omega) (by omega), zero (by omega) (by omega), zero (by omega) (by omega)]
  rfl

theorem slotTrb_newRingMem {j : Nat} (hj : j < 16) :
    slotTrb (newRingMem m p) p j =
      if j = 15 then linkRecord p false else { param := 0, status := 0, control := 0 } := by
  rw [newRingMem, slotTrb_putTrb (Memory.clear_wf hm _ _) hp (by decide) hj, slotTrb_clear hm hp hj]

theorem read_newRingMem_outside {x : Nat} (hx : x < p.toNat ∨ p.toNat + 256 ≤ x) :
    (newRingMem m p).read x = m.read x := by
  have hslot := slotAt_toNat hp (i := 15) (by decide)
  rw [newRingMem, read_putTrb_outside (Memory.clear_wf hm _ _) (by omega) _ (by omega), (zeroed_clear hm p 256).1 x hx]

end

/-- Which blocks are freed does not depend on the record of accesses. -/
theorem freeAllocs_withTrace (bases : List Addr) (tr : List Access) (s : State) :
    freeAllocs bases { s with trace := tr } = { freeAllocs bases s with trace := tr } := by
  have hreach : inReach { s with trace := tr } = inReach s := funext (inReach_congr rfl rfl rfl)
  unfold freeAllocs
  rw [hreach]

theorem installCommandRing_withTrace_finish (p : Addr) (r : Result) (tr : List Access) (s : State) :
    (installCommandRing p { s with trace := tr }).finish r =
      { freeAllocs (ownedBlocks (.ring .command) s) (s.finish r) with
        cmdRing := some { ring := { phys := p, index := 0 }, cso := false }
        trace := tr } := by
  have hfreed (bases : List Addr) :
      (freeAllocs bases { s with trace := tr }).finish r = { freeAllocs bases (s.finish r) with trace := tr } := by
    rw [freeAllocs_withTrace, freeAllocs_finish]
    rfl
  exact congrArg (fun u : State => { u with cmdRing := some { ring := { phys := p, index := 0 }, cso := false } })
    (hfreed (ownedBlocks (.ring .command) s))

/-- `CommandRing::new`, where the allocator's answer is admissible: the cycle bit that the Link keeps is that of a zeroed
slot. -/
theorem comes_commandRingNew {s : State} (hm : s.mem.wf = true) (h : admissible s 256 4096 s.draw.1 = true) :
    ∃ tr, Comes progCommandRingNew s (.ret (.region s.draw.1 256))
      (installCommandRing s.draw.1 { s.withBlock 256 .ring with mem := newRingMem s.mem s.draw.1, trace := tr }) := by
  obtain ⟨hp, -⟩ := allocOk_of_admissible (kind := .ring) ⟨rfl, rfl⟩ h
  obtain ⟨tr, hlink⟩ := comes_storeLink hp
    (update (installCommandRing s.draw.1) (.ret (.region s.draw.1 256))) (s.withBlock 256 .ring)
  have hcycle : slotCycle (s.withBlock 256 .ring).mem s.draw.1 15 = false :=
    congrArg trbCycle (slotTrb_clear hm hp (by decide))
  rw [hcycle] at hlink
  exact ⟨tr, ((comes_allocate_of_admissible h .ring _).trans hlink).trans (comes_update _ _ _)⟩

/-- Settles O30: the block is made, the Link stored into its last slot, then the ring takes its place. -/
theorem commandRingNewInstallsTheLink : Obligations.CommandRingNewInstallsTheLink := by
  unfold Obligations.CommandRingNewInstallsTheLink
  intro s hs hm h
  obtain ⟨hp, -⟩ := allocOk_of_admissible (kind := .ring) ⟨rfl, rfl⟩ h
  have hslots {j : Nat} (hj : j < 16) := slotTrb_newRingMem hm hp hj
  have houtside := fun x hx => read_newRingMem_outside hm hp (x := x) hx
  obtain ⟨tr, hnew⟩ := comes_commandRingNew hm h
  generalize newRingMem s.mem s.draw.1 = m at hslots houtside hnew
  refine ⟨_, runOp_ret hs.1 hs.2 hnew .commandRingNew, houtside,
    fun j hj => (hslots (by omega)).trans (if_neg (by omega)), (hslots (by decide)).trans ?link, ?frame⟩
  case link => rfl
  case frame =>
    exact installCommandRing_withTrace_finish s.draw.1 (.region s.draw.1 256) tr { s.withBlock 256 .ring with mem := m }

/-! ### The reset of the Command Ring (R212) -/

section

variable {s : State} {c : CommandRing} (hc : s.cmdRing = some c)

include hc

/-- The cursor goes back to slot 0, then the flag to false. -/
theorem setCso_setIndex_command (m : Memory) (tr : List Access) :
    State.setCso { s.setIndex .command 0 with mem := m, trace := tr } .command false =
      { s with
        mem := m
        cmdRing := some { ring := { c.ring with index := 0 }, cso := false }
        trace := tr } := by
  simp [State.setCso, State.setIndex, hc]

/-- `CommandRing::reset`: the ring's reset, then the flag. -/
theorem comes_commandRingReset :
    ∃ tr, Comes progCommandRingReset s (.ret .unit)
      { s with
        mem := clearedFrom c.ring.phys 16 0 s.mem
        cmdRing := some { ring := { c.ring with index := 0 }, cso := false }
        trace := tr } := by
  obtain ⟨tr, hreset⟩ := comes_resetRing (ring?_command hc) (update (fun s => s.setCso .command false) (.ret .unit))
  have hrun := hreset.trans (comes_update (fun s => s.setCso .command false) _ _)
  rw [setCso_setIndex_command hc] at hrun
  exact ⟨tr, hrun⟩

end

/-- Settles O31: the cycle bits are cleared one after another, then the flag. -/
theorem commandRingResetResetsRingAndFlag : Obligations.CommandRingResetResetsRingAndFlag := by
  unfold Obligations.CommandRingResetResetsRingAndFlag
  intro c s hs hc hp hm
  obtain ⟨tr, hreset⟩ := comes_commandRingReset hc
  have houtside := fun x hx => read_clearedFrom_outside hp (x := x) hx 16 0 hm (by decide)
  have hslots := fun j (hj : j < 16) => (slotTrb_clearedFrom hp hj 16 0 hm (by decide)).trans (if_pos (by omega))
  generalize clearedFrom c.ring.phys 16 0 s.mem = m at hreset houtside hslots
  exact ⟨_, runOp_ret hs.1 hs.2 hreset .commandRingReset, houtside, hslots, rfl⟩

/-! ### What `push` leaves as it was (R214) -/

section

variable {m : Memory} (hm : m.wf = true)

include hm

/-- Outside the slot published every byte reads as before. -/
theorem read_published_outside {base : Addr} (hp : base.toNat + 256 ≤ 2 ^ 64) {i : Nat} (hi : i < 16) (x : Trb) (c : Bool)
    {a : Nat} (ha : a < base.toNat + 16 * i ∨ base.toNat + 16 * i + 16 ≤ a) :
    (published m base i x c).read a = m.read a := by
  have hslot := slotAt_toNat hp hi
  rw [published, read_putCycle_outside (putTrb_wf hm _ _) hp hi _ (by omega),
    read_putTrb_outside hm (by omega) _ (by omega)]

/-- A push changes bytes of the slot it publishes and, behind the last usable slot, of the Link's control word. -/
theorem read_pushedMem_outside {c : CommandRing} (hp : c.ring.Placed) (x : Trb) {a : Nat}
    (ha : a < c.ring.phys.toNat + 16 * c.ring.index.val ∨ c.ring.phys.toNat + 16 * c.ring.index.val + 16 ≤ a)
    (hlink : c.ring.index.val = 14 → a < c.ring.phys.toNat + 252 ∨ c.ring.phys.toNat + 256 ≤ a) :
    (pushedMem m c x).read a = m.read a := by
  have hstored := read_published_outside hm hp c.ring.index.isLt x c.cso ha
  by_cases h14 : c.ring.index.val = 14
  · rw [pushedMem_of_last h14, read_putCycle_outside (published_wf hm _ x _) hp (by decide) _ (hlink h14), hstored]
  · rw [pushedMem_of_ne h14, hstored]

end

/-- Settles O32: the record is stored and its slot handed over, then the Link if the cursor has come to it. -/
theorem pushPublishesTheCommand : Obligations.PushPublishesTheCommand := by
  unfold Obligations.PushPublishesTheCommand
  intro c x s hs hc hring hm
  obtain ⟨tr, hpush⟩ := comes_push hc hm hring x
  have ⟨hplaced, hlast, _⟩ := hring
  have hlink := slotTrb_pushedMem_link hm x hring
  refine ⟨_, c.pushed.ring.index, runOp_ret hs.1 hs.2 hpush (.push x), rfl, ?slot,
    fun a => read_pushedMem_outside hm hplaced x, fun h14 => ?link, rfl,
    fun hx => ⟨pushedMem_wf hm x, c.pushed, rfl, producerRing_pushed hm x hring hx⟩⟩
  case slot => exact (slotTrb_pushedMem hm x hring (by omega)).trans (if_pos rfl)
  case link => exact hlink.trans (congrArg (linkRecord _) (if_pos h14))

end Sys2Proof.Machine
end

section
/-! SUPPORT. The owners of DMA-visible memory: the address and the bytes that each answers (R230, R291, R294), and what
remains when one is dropped (R232, R295, R346). -/

namespace Sys2Proof.Machine

open Sys2Proof

/-! ### The block an owner names (R291, R294) -/

/-- A data buffer of a Transfer Ring is looked up under the ring's lock (R230). -/
theorem comes_getRegion_buffer {s : State} {j : Nat} {t : TransferRing} (ht : s.transferRing? j = some t)
    (hfree : t.lock = .free) (i : Nat) (k : Addr → Nat → Prog) :
    Comes (getRegion (.buffer j i) k) s
      (match t.buffers[i]? with
        | some b => release (.ring j) (k b Config.bufSize)
        | none => .fatal .ringIndex)
      (held (.transfer j) s) := by
  have hlock : s.lock? (.ring j) = some .free := by simp [State.lock?, ht, hfree]
  exact (comes_acquire hlock _).trans (comes_getTransfer (transferRing?_setLock ht (.held s.agent)) _)

section

variable {s : State} (hs : Unmarked s) (f : Addr → Nat → Result) (op : Instr)

include hs

/-- A bare buffer answers at once. -/
theorem runOp_getRegion_pinned {j : Nat} {b : PinnedBuf} (hb : s.pinnedBuf? j = some b) (hsize : b.size < 2 ^ 64) :
    runOp op (getRegion (.pinned j) fun p n => .ret (f p n)) s = .next (s.finish (f b.phys b.size)) := by
  have hphys : Comes (getRegion (.pinned j) fun p n => .ret (f p n)) s _ s :=
    Comes.of_done (v := .ring { phys := b.phys, index := 0 }) (by simp [hb])
  have hblock := hphys.trans (Comes.of_done (s' := s) (v := .word (BitVec.ofNat 64 b.size)) (by simp [hb]))
  have hn : (BitVec.ofNat 64 b.size).toNat = b.size := by rw [BitVec.toNat_ofNat, Nat.mod_eq_of_lt hsize]
  have hrun := runOp_ret hs.1 hs.2 hblock op
  rwa [Val.toWord, hn] at hrun

/-- So does the DCBAA. -/
theorem runOp_getRegion_dcbaa {b : Addr} (hb : s.dcbaa = some b) :
    runOp op (getRegion .dcbaa fun p n => .ret (f p n)) s = .next (s.finish (f b 2048)) :=
  runOp_ret hs.1 hs.2 (comes_getDcbaa hb fun p => .ret (f p Config.dcbaaBytes)) op

/-- A ring answers under its lock. -/
theorem runOp_getRegion_ring {r : RingId} {b : RingBuf} (hr : s.ring? r = some b) (hfree : LockFree s r) :
    runOp op (getRegion (.ring r) fun p n => .ret (f p n)) s = .next (s.finish (f b.phys 256)) :=
  runOp_inspect hs hr hfree op fun b => f b.phys Config.ringBytes

variable {j i : Nat} {t : TransferRing} (ht : s.transferRing? j = some t) (hfree : t.lock = .free)

include ht hfree

theorem runOp_getRegion_buffer {b : Addr} (hb : t.buffers[i]? = some b) :
    runOp op (getRegion (.buffer j i) fun p n => .ret (f p n)) s = .next (s.finish (f b 4096)) := by
  have hlock : LockFree s (.transfer j) := by simp [LockFree, State.lock?, ht, hfree]
  have hbuffer := comes_getRegion_buffer ht hfree i fun p n => .ret (f p n)
  rw [hb] at hbuffer
  rw [runOp_unlock (r := .transfer j) hs hbuffer, released_held hlock]
  rfl

/-- A buffer index outside the ring is fatal, with the lock held (R305, R314). -/
theorem runOp_getRegion_buffer_fatal (hb : t.buffers[i]? = none) :
    runOp op (getRegion (.buffer j i) fun p n => .ret (f p n)) s =
      .next (raiseFatal .ringIndex (held (.transfer j) s)) := by
  have hbuffer := comes_getRegion_buffer ht hfree i fun p n => .ret (f p n)
  rw [hb] at hbuffer
  exact runOp_fatal hs.1 hs.2 hbuffer op

end

/-- Settles O45: both operations ask the owner for its block. -/
theorem addressesOfAllocations : Obligations.AddressesOfAllocations := by
  unfold Obligations.AddressesOfAllocations
  intro s hs
  refine ⟨fun j b hb hsize => ?pinned, fun r b hr hfree => ?ring, fun b hb => ?dcbaa, fun j i t ht hfree =>
    ⟨fun b hb => ?buffer, fun hlength hi => ?outside⟩⟩
  case pinned =>
    exact ⟨runOp_getRegion_pinned hs (fun p _ => .word p) _ hb hsize, runOp_getRegion_pinned hs .region _ hb hsize⟩
  case ring =>
    exact ⟨runOp_getRegion_ring hs (fun p _ => .word p) _ hr hfree, runOp_getRegion_ring hs .region _ hr hfree⟩
  case dcbaa => exact ⟨runOp_getRegion_dcbaa hs (fun p _ => .word p) _ hb, runOp_getRegion_dcbaa hs .region _ hb⟩
  case buffer =>
    exact ⟨runOp_getRegion_buffer hs (fun p _ => .word p) _ ht hfree hb,
      runOp_getRegion_buffer hs .region _ ht hfree hb⟩
  case outside =>
    have hnone : t.buffers[i]? = none := List.getElem?_eq_none (by omega)
    exact ⟨runOp_getRegion_buffer_fatal hs (fun p _ => .word p) _ ht hfree hnone,
      runOp_getRegion_buffer_fatal hs .region _ ht hfree hnone⟩

/-! ### Dropping an owner (R232, R295, R346; log 39, 49) -/

/-- A turn that drops an owner: in the middle of an operation only the agent that has the turn is chosen. -/
theorem step_drop {o : Owned} {s : State} {ts : List Turn} (hs : Unmarked s) :
    step { s with turns := .drop o :: ts } =
      .next
        (if (dispatch { s with turns := ts }).ctx.current = none then dropOwner o (dispatch { s with turns := ts })
        else dispatch { s with turns := ts }) := by
  have haction : nextAction { s with turns := .drop o :: ts } = dropAction o { s with turns := ts } := rfl
  simp only [step, haction, dropAction, cpuTurn_of_unmarked (s := { s with turns := ts }) hs.1 hs.2,
    Option.isNone_iff_eq_none]

/-- An emptied place of a list is empty, and the others are as they were. -/
theorem getElem?_set_none_join {α : Type} (l : List (Option α)) (k j : Nat) :
    (l.set k none)[j]?.join = if k = j then none else l[j]?.join := by
  rw [List.getElem?_set]
  split
  · split <;> rfl
  · rfl

section

variable (o : Owned) (s : State)

theorem dropOwner_transferRing? (j : Nat) :
    (dropOwner o s).transferRing? j = if o = .ring (.transfer j) then none else s.transferRing? j := by
  cases o with
  | ring r =>
    cases r with
    | transfer k =>
      simp only [Owned.ring.injEq, RingId.transfer.injEq]
      exact getElem?_set_none_join s.transferRings k j
    | command | event | bare k => exact (if_neg nofun).symm
  | pinned k => exact (if_neg nofun).symm
  | dcbaa => exact (if_neg nofun).symm

theorem dropOwner_pinnedBuf? (j : Nat) :
    (dropOwner o s).pinnedBuf? j = if o = .pinned j then none else s.pinnedBuf? j := by
  cases o with
  | ring r => cases r <;> exact (if_neg nofun).symm
  | pinned k =>
    simp only [Owned.pinned.injEq]
    exact getElem?_set_none_join s.pinned k j
  | dcbaa => exact (if_neg nofun).symm

theorem dropOwner_bareRing? (j : Nat) :
    (dropOwner o s).ring? (.bare j) = if o = .ring (.bare j) then none else s.ring? (.bare j) := by
  cases o with
  | ring r =>
    cases r with
    | bare k =>
      simp only [Owned.ring.injEq, RingId.bare.injEq]
      exact getElem?_set_none_join s.bareRings k j
    | command | event | transfer k => exact (if_neg nofun).symm
  | pinned k => exact (if_neg nofun).symm
  | dcbaa => exact (if_neg nofun).symm

/-- The place of the owner dropped is empty, every other ring stands. -/
theorem dropOwner_ring? (r : RingId) : (dropOwner o s).ring? r = if o = .ring r then none else s.ring? r := by
  cases r with
  | command => exact apply_ite (Option.map CommandRing.ring) _ none s.cmdRing
  | transfer j =>
    rw [State.ring?, dropOwner_transferRing?]
    exact apply_ite (Option.map TransferRing.ring) _ none (s.transferRing? j)
  | event => exact apply_ite (Option.map EventRing.ring) _ none s.eventRing
  | bare j => exact dropOwner_bareRing? o s j

/-- No block is owned from the place of the owner dropped. -/
theorem ownedBlocks_dropOwner : ownedBlocks o (dropOwner o s) = [] := by
  cases o with
  | ring r =>
    cases r with
    | transfer k => simp [ownedBlocks, dropOwner_transferRing?]
    | bare k => simp [ownedBlocks, dropOwner_ring?]
    | command | event => rfl
  | pinned k => simp [ownedBlocks, dropOwner_pinnedBuf?]
  | dcbaa => rfl

/-- The owner's blocks are no longer live (R295). -/
theorem mem_dropOwner_allocs (a : Alloc) :
    a ∈ (dropOwner o s).allocs ↔ a ∈ s.allocs ∧ a.base ∉ ownedBlocks o s := by
  have hallocs : (dropOwner o s).allocs = s.allocs.filter fun a => !(ownedBlocks o s).contains a.base := rfl
  simp [hallocs]

/-- Those in the controller's reach stay there (R295). -/
theorem dropOwner_stale :
    (dropOwner o s).stale =
      s.allocs.filter (fun a => (ownedBlocks o s).contains a.base && inReach s a) ++ s.stale := by
  have hreach : inReach (clearOwner o s) = inReach s := funext (inReach_congr rfl rfl rfl)
  rw [← hreach]
  rfl

theorem mem_dropOwner_stale (a : Alloc) :
    a ∈ (dropOwner o s).stale ↔ a ∈ s.stale ∨ a ∈ s.allocs ∧ a.base ∈ ownedBlocks o s ∧ inReach s a = true := by
  simp [dropOwner_stale, or_comm]

/-- Nothing is in the reach of a controller that holds no address (R346). -/
theorem dropOwner_stale_of_known_nil (hknown : s.hc.known = []) (hheld : s.hc.held = []) :
    (dropOwner o s).stale = s.stale := by
  simp [dropOwner_stale, inReach_of_known_nil hknown hheld]

end

/-- A block that the invariant allows may be drawn again once no live block but itself has a byte of it (R290, R295). -/
theorem admissible_of_allocOk {s t : State} (hcfg : t.cfg = s.cfg) (hcap : t.cap = s.cap) {a : Alloc} (ha : AllocOk s a)
    (hkind : a.kind ≠ .other)
    (hapart : ∀ l ∈ t.allocs, apart a.base.toNat a.size l.base.toNat l.size = true) :
    admissible t a.size 4096 a.base = true := by
  obtain ⟨hfits, hkindOk, hcapOk, hopOk, hdbOk⟩ := ha
  have halign : a.base.toNat % 4096 = 0 := by
    obtain ⟨base, size, kind⟩ := a
    cases kind with
    | other => exact absurd rfl hkind
    | ring | buffer | dcbaa => exact hkindOk.2
  have hop : opBase t = opBase s ∧ opSize t = opSize s := by simp only [opBase, opSize, hcfg, hcap, and_self]
  have hdb : dbBase t = dbBase s ∧ dbSize t = dbSize s := by simp only [dbBase, dbSize, hcfg, hcap, and_self]
  simp only [admissible, Bool.and_eq_true, decide_eq_true_eq, List.all_eq_true, hcfg, hcap, hop, hdb]
  exact ⟨⟨⟨⟨⟨halign, hfits⟩, hapart⟩, hcapOk⟩, hopOk⟩, hdbOk⟩

/-- The blocks of the owner dropped may be drawn again. -/
theorem admissible_dropOwner {o : Owned} {s : State} (h : s.Inv) {a : Alloc} (ha : a ∈ s.allocs)
    (howned : a.base ∈ ownedBlocks o s) (hkind : a.kind ≠ .other) :
    admissible (dropOwner o s) a.size 4096 a.base = true := by
  obtain ⟨-, -, hok, hapart, -, -⟩ := h
  refine admissible_of_allocOk (s := s) (t := dropOwner o s) rfl rfl (hok a ha) hkind fun l hl => ?_
  obtain ⟨hlive, hother⟩ := (mem_dropOwner_allocs o s l).1 hl
  have hsymm : Std.Symm fun x y : Alloc => apart x.base.toNat x.size y.base.toNat y.size = true :=
    ⟨fun _ _ hxy => (apart_comm _ _ _ _).trans hxy⟩
  exact hapart.forall ha hlive fun hal => hother (hal ▸ howned)

/-- Settles O38: between operations the turn is the drop, which empties the owner's place and frees its blocks. -/
theorem droppedOwnersFreeTheirBlocks : Obligations.DroppedOwnersFreeTheirBlocks := by
  unfold Obligations.DroppedOwnersFreeTheirBlocks
  intro o s ts hs d blocks
  refine ⟨fun hbusy => (step_drop hs).trans (congrArg _ (if_neg hbusy)), fun hidle => ?drops⟩
  case drops =>
    have hreach : inReach d = inReach s := funext (inReach_congr rfl rfl rfl)
    have hstale := mem_dropOwner_stale o d
    rw [hreach] at hstale
    exact ⟨dropOwner o d, (step_drop hs).trans (congrArg _ (if_pos hidle)), ownedBlocks_dropOwner o d,
      dropOwner_ring? o d, dropOwner_transferRing? o d, dropOwner_pinnedBuf? o d, mem_dropOwner_allocs o d, hstale,
      dropOwner_stale_of_known_nil o d, rfl,
      fun hinv a ha howned hkind => admissible_dropOwner (s := d) hinv ha howned hkind⟩

end Sys2Proof.Machine
end

section
/-! SUPPORT. The Transfer Ring between operations (R227, R228, R231): the ring at a place as the operations under its
lock rewrite it, the hand-over of the slot at the enqueue cursor, and `fill_ring` and `dequeue_trb` made of such
hand-overs. -/

namespace Sys2Proof.Machine

open Sys2Proof

/-! ### The Transfer Ring at a place -/

/-- The state with the Transfer Ring `r` at place `k`. -/
def State.putTransfer (s : State) (k : Nat) (r : TransferRing) : State :=
  { s with transferRings := s.transferRings.set k (some r) }

section

variable {s : State} {k : Nat} {r : TransferRing} (h : s.transferRing? k = some r)

include h

theorem transferRing?_putTransfer (r' : TransferRing) : (s.putTransfer k r').transferRing? k = some r' := by
  have hk : s.transferRings[k]? = some (some r) := Option.join_eq_some_iff.1 h
  obtain ⟨hlt, -⟩ := List.getElem?_eq_some_iff.1 hk
  simp [State.transferRing?, State.putTransfer, hlt]

/-- A ring that stands is rewritten by putting the new one at its place. -/
theorem modifyTransfer_eq_set (f : TransferRing → TransferRing) :
    s.modifyTransfer k f = s.transferRings.set k (some (f r)) := by
  have hk : s.transferRings[k]? = some (some r) := Option.join_eq_some_iff.1 h
  simp [State.modifyTransfer, List.modify_eq_set_getElem?, hk]

theorem setLock_eq_putTransfer (v : Lock) : s.setLock (.ring k) v = s.putTransfer k { r with lock := v } := by
  rw [setLock_ring, modifyTransfer_eq_set h]
  rfl

theorem setDeq_eq_putTransfer (d : Fin 15) : s.setDeq k d = s.putTransfer k { r with deq := d } := by
  rw [State.setDeq, modifyTransfer_eq_set h]
  rfl

theorem setIndex_eq_putTransfer (i : Fin 16) :
    s.setIndex (.transfer k) i = s.putTransfer k { r with ring := { r.ring with index := i } } := by
  rw [State.setIndex, modifyTransfer_eq_set h]
  rfl

theorem moveIndex_eq_putTransfer (i : Fin 16) :
    s.moveIndex (.transfer k) i = s.putTransfer k { r with ring := { r.ring with index := i } } :=
  setIndex_eq_putTransfer h i

theorem setCso_eq_putTransfer (c : Bool) : s.setCso (.transfer k) c = s.putTransfer k { r with cso := c } := by
  rw [State.setCso, modifyTransfer_eq_set h]
  rfl

theorem putTransfer_self : s.putTransfer k r = s := by
  have hself : s.transferRings.set k (some r) = s.transferRings :=
    (modifyTransfer_eq_set h id).symm.trans (modifyTransfer_eq_self h rfl)
  rw [State.putTransfer, hself]

theorem ring?_transfer : s.ring? (.transfer k) = some r.ring := congrArg (Option.map TransferRing.ring) h

theorem cso?_transfer : s.cso? (.transfer k) = some r.cso := congrArg (Option.map TransferRing.cso) h

theorem lock?_transfer : s.lock? (.ring k) = some r.lock := congrArg (Option.map TransferRing.lock) h

end

@[simp] theorem putTransfer_putTransfer (s : State) (k : Nat) (r r' : TransferRing) :
    (s.putTransfer k r).putTransfer k r' = s.putTransfer k r' := by simp [State.putTransfer]

/-! ### Control words -/

theorem withCycle_trbCycle (t : Trb) : withCycle t.control (trbCycle t) = t.control := by
  apply BitVec.eq_of_getLsbD_eq
  intro i hi
  simp only [withCycle, trbCycle, BitVec.getLsbD_or, BitVec.getLsbD_and, BitVec.getLsbD_not, BitVec.getLsbD_setWidth]
  cases i <;> simp [hi]

/-- The control word of a Normal record (R106). -/
theorem withCycle_normal (c : Bool) : withCycle 0x424 c = if c then 0x425 else 0x424 := by cases c <;> decide

/-- From `m` to `m'` only cycle bits of the ring at `base` have changed. -/
structure Recycled (base : Addr) (m m' : Memory) : Prop where
  wf : m'.wf = true
  outside : ∀ x, (x < base.toNat ∨ base.toNat + 256 ≤ x) → m'.read x = m.read x
  slots : ∀ j, j < 16 →
    slotTrb m' base j =
      { slotTrb m base j with control := withCycle (slotTrb m base j).control (slotCycle m' base j) }

namespace Recycled

variable {base : Addr} {m m' m'' : Memory}

theorem refl (hm : m.wf = true) : Recycled base m m where
  wf := hm
  outside _ _ := rfl
  slots j _ := by rw [slotCycle, withCycle_trbCycle]

theorem trans (h : Recycled base m m') (h' : Recycled base m' m'') : Recycled base m m'' where
  wf := h'.wf
  outside x hx := (h'.outside x hx).trans (h.outside x hx)
  slots j hj := by
    rw [h'.slots j hj, h.slots j hj]
    simp only [withCycle_withCycle]

theorem putCycle (hm : m.wf = true) (hp : base.toNat + 256 ≤ 2 ^ 64) {i : Nat} (hi : i < 16) (c : Bool) :
    Recycled base m (putCycle m base i c) where
  wf := putCycle_wf hm base i c
  outside x hx := read_putCycle_outside hm hp hi c (by omega)
  slots j hj := by
    rw [slotCycle_putCycle hm hp hi hj, slotTrb_putCycle hm hp hi hj]
    by_cases hji : j = i
    · subst hji
      simp only [if_pos]
    · simp only [if_neg hji, slotCycle, withCycle_trbCycle]

end Recycled

/-! ### The hand-over of the slot at the enqueue cursor (R192, R198, R227, R228) -/

/-- The enqueue cursor and the flag, as those of a Command Ring. -/
def TransferRing.producer (r : TransferRing) : CommandRing := { ring := r.ring, cso := r.cso }

/-- The ring after its enqueue cursor has moved on by one slot (R192). -/
def TransferRing.advanced (r : TransferRing) : TransferRing :=
  { r with ring := { r.ring with index := r.ring.index + 1 } }

/-- The ring after a hand-over: its cursor and flag move as those of a Command Ring do by a push. -/
def TransferRing.armed (r : TransferRing) : TransferRing :=
  { r with ring := r.producer.pushed.ring, cso := r.producer.pushed.cso }

theorem armed_of_last {r : TransferRing} (h : r.ring.index.val = 14) :
    r.armed = { r with ring := { r.ring with index := 0 }, cso := !r.cso } := by
  rw [TransferRing.armed, pushed_of_last (c := r.producer) h]
  rfl

theorem armed_of_lt {r : TransferRing} (h : r.ring.index.val < 14) :
    r.armed = r.advanced := by
  rw [TransferRing.armed, pushed_of_lt (c := r.producer) h]
  rfl

/-- The memory after a hand-over: the slot's cycle bit, and behind the last usable slot the Link's. -/
def armedMem (m : Memory) (r : TransferRing) : Memory :=
  let handed := putCycle m r.ring.phys r.ring.index.val (!r.cso)
  if r.ring.index.val = 14 then putCycle handed r.ring.phys 15 (!r.cso) else handed

theorem armedMem_of_last {r : TransferRing} (h : r.ring.index.val = 14) (m : Memory) :
    armedMem m r = putCycle (putCycle m r.ring.phys r.ring.index.val (!r.cso)) r.ring.phys 15 (!r.cso) := if_pos h

theorem armedMem_of_ne {r : TransferRing} (h : r.ring.index.val ≠ 14) (m : Memory) :
    armedMem m r = putCycle m r.ring.phys r.ring.index.val (!r.cso) := if_neg h

/-- What holds of a ring between operations is a matter of its slots. -/
theorem producerRing_congr {m m' : Memory} {b : RingBuf} {c : Bool}
    (h : ∀ j, j < 16 → slotTrb m' b.phys j = slotTrb m b.phys j) (hring : ProducerRing m b c) :
    ProducerRing m' b c := by
  obtain ⟨hp, hlast, hcycles, htypes, hlink⟩ := hring
  refine ⟨hp, hlast, fun j hj => ?_, fun j hj => ?_, (h 15 (by decide)).trans hlink⟩
  · rw [slotCycle, h j (by omega)]
    exact hcycles j hj
  · rw [h j (by omega)]
    exact htypes j hj

section

variable {m : Memory} (hm : m.wf = true) {r : TransferRing}

include hm

/-- A hand-over changes the control word of the slot, and behind the last usable slot that of the Link. -/
theorem read_armedMem_outside (hp : r.ring.Placed) {a : Nat}
    (ha : a < r.ring.phys.toNat + 16 * r.ring.index.val + 12 ∨ r.ring.phys.toNat + 16 * r.ring.index.val + 16 ≤ a)
    (hlink : r.ring.index.val = 14 → a < r.ring.phys.toNat + 252 ∨ r.ring.phys.toNat + 256 ≤ a) :
    (armedMem m r).read a = m.read a := by
  have hhanded := read_putCycle_outside hm hp r.ring.index.isLt (!r.cso) ha
  by_cases h14 : r.ring.index.val = 14
  · rw [armedMem_of_last h14, read_putCycle_outside (putCycle_wf hm _ _ _) hp (by decide) _ (hlink h14), hhanded]
  · rw [armedMem_of_ne h14, hhanded]

theorem recycled_armedMem (hp : r.ring.Placed) : Recycled r.ring.phys m (armedMem m r) := by
  have hhanded := Recycled.putCycle hm hp r.ring.index.isLt (!r.cso)
  by_cases h14 : r.ring.index.val = 14
  · rw [armedMem_of_last h14]
    exact hhanded.trans (Recycled.putCycle hhanded.wf hp (by decide) (!r.cso))
  · rw [armedMem_of_ne h14]
    exact hhanded

/-- Slot by slot, handing a record over is pushing the record that stands there. -/
theorem slotTrb_armedMem (hp : r.ring.Placed) {j : Nat} (hj : j < 16) :
    slotTrb (armedMem m r) r.ring.phys j =
      slotTrb (pushedMem m r.producer (slotTrb m r.ring.phys r.ring.index.val)) r.ring.phys j := by
  have hhanded {i : Nat} (hi : i < 16) :
      slotTrb (putCycle m r.ring.phys r.ring.index.val (!r.cso)) r.ring.phys i =
        slotTrb (published m r.ring.phys r.ring.index.val (slotTrb m r.ring.phys r.ring.index.val) r.cso)
          r.ring.phys i := by
    rw [slotTrb_putCycle hm hp r.ring.index.isLt hi, slotTrb_published hm hp r.ring.index.isLt hi]
  by_cases h14 : r.ring.index.val = 14
  · rw [armedMem_of_last h14, pushedMem_of_last (c := r.producer) h14,
      slotTrb_putCycle (putCycle_wf hm _ _ _) hp (by decide) hj, hhanded hj, hhanded (by decide)]
    exact (slotTrb_putCycle (published_wf hm _ _ _) hp (by decide) hj _).symm
  · rw [armedMem_of_ne h14, pushedMem_of_ne (c := r.producer) h14, hhanded hj]
    rfl

variable (hring : ProducerRing m r.ring r.cso)

include hring

/-- What holds of the ring between operations holds again (R231). -/
theorem producerRing_armed : ProducerRing (armedMem m r) r.armed.ring r.armed.cso := by
  have ⟨hp, hlast, _, htypes, _⟩ := hring
  exact producerRing_congr (fun j hj => slotTrb_armedMem hm hp hj)
    (producerRing_pushed hm _ (c := r.producer) hring (htypes _ (by omega)))

/-- The slot at the cursor has the new cycle bit. -/
theorem slotTrb_armedMem_cursor :
    slotTrb (armedMem m r) r.ring.phys r.ring.index.val =
      { slotTrb m r.ring.phys r.ring.index.val with
        control := withCycle (slotTrb m r.ring.phys r.ring.index.val).control (!r.cso) } := by
  have ⟨hp, hlast, _⟩ := hring
  exact (slotTrb_armedMem hm hp (by omega)).trans
    ((slotTrb_pushedMem hm _ (c := r.producer) hring (by omega)).trans (if_pos rfl))

end

section

variable {k : Nat} {s : State} {r : TransferRing} (h : s.transferRing? k = some r)

include h

/-- `advance_index` of a Transfer Ring whose slot at the cursor is still software's (R192). -/
theorem comes_advance_transfer (hc : slotCycle s.mem r.ring.phys r.ring.index.val = r.cso) (q : Prog) :
    ∃ tr, Comes (advance (.transfer k) (!r.cso) q) s q
      { s.putTransfer k r.advanced with
        mem := putCycle s.mem r.ring.phys r.ring.index.val (!r.cso)
        trace := tr } := by
  obtain ⟨tr, hadvance⟩ := comes_advance (ring?_transfer h) (c := !r.cso) (by simp [hc]) q
  rw [moveIndex_eq_putTransfer h] at hadvance
  exact ⟨tr, hadvance⟩

/-- `skip_link` behind the last usable slot: the Link is handed over, the cursor wraps and the flag flips (R198). -/
theorem comes_passLink_transfer_last (h15 : r.ring.index.val = 15)
    (hlink : slotTrb s.mem r.ring.phys 15 = linkRecord r.ring.phys r.cso) (q : Prog) :
    ∃ tr, Comes (passLink (.transfer k) q) s q
      { s.putTransfer k { r.advanced with cso := !r.cso } with
        mem := putCycle s.mem r.ring.phys 15 (!r.cso)
        trace := tr } := by
  rw [← h15] at hlink
  have hty : trbTypeOf (slotTrb s.mem r.ring.phys r.ring.index.val) = 6 := by rw [hlink, trbTypeOf_linkRecord]
  have hcycle : slotCycle s.mem r.ring.phys r.ring.index.val = r.cso := by rw [slotCycle, hlink, trbCycle_linkRecord]
  obtain ⟨tr, hpass⟩ := comes_passLink_of_link (o := .transfer k) (ring?_transfer h) (cso?_transfer h) hty hcycle q
  rw [show ownerRing (.transfer k) = .transfer k from rfl, moveIndex_eq_putTransfer h,
    setCso_eq_putTransfer (transferRing?_putTransfer h _), putTransfer_putTransfer, h15] at hpass
  exact ⟨tr, hpass⟩

/-- A hand-over and the passing of the Link, as `fill_ring` and `dequeue_trb` make them between operations of the
ring. -/
theorem comes_handOver (hm : s.mem.wf = true) (hring : ProducerRing s.mem r.ring r.cso) (q : Prog) :
    ∃ tr, Comes (advance (.transfer k) (!r.cso) (passLink (.transfer k) q)) s q
      { s.putTransfer k r.armed with mem := armedMem s.mem r, trace := tr } := by
  have hours : slotCycle s.mem r.ring.phys r.ring.index.val = r.cso :=
    (slotCycle_of_producerRing hring r.ring.index.isLt).trans (if_neg (lt_irrefl _))
  obtain ⟨hp, hlast, -, htypes, hlink⟩ := hring
  obtain ⟨tr, hadvance⟩ := comes_advance_transfer h hours (passLink (.transfer k) q)
  have hslots {j : Nat} (hj : j < 16) := slotTrb_putCycle hm hp r.ring.index.isLt hj (!r.cso)
  have hnext : (r.ring.index + 1).val = r.ring.index.val + 1 := index_succ (c := r.producer) hlast
  have hstands := transferRing?_putTransfer h r.advanced
  by_cases h14 : r.ring.index.val = 14
  case pos =>
    have hwraps : r.ring.index + 1 + 1 = 0 := (cursor_wraps_iff _).2 (by omega)
    have hlink15 := hslots (j := 15) (by decide)
    rw [if_neg (by omega), hlink] at hlink15
    obtain ⟨tr', hpass⟩ := comes_passLink_transfer_last
      (s := { s.putTransfer k r.advanced with
        mem := putCycle s.mem r.ring.phys r.ring.index.val (!r.cso), trace := tr })
      hstands (hnext.trans (by omega)) hlink15 q
    rw [armedMem_of_last h14, armed_of_last h14, ← hwraps, ← putTransfer_putTransfer s k r.advanced]
    exact ⟨tr', hadvance.trans hpass⟩
  case neg =>
    have hty := htypes (r.ring.index.val + 1) (by omega)
    have hnextSlot := hslots (j := r.ring.index.val + 1) (by omega)
    rw [if_neg (by omega)] at hnextSlot
    rw [← hnextSlot, ← hnext] at hty
    obtain ⟨tr', hpass⟩ := comes_passLink_of_other (o := .transfer k)
      (s := { s.putTransfer k r.advanced with
        mem := putCycle s.mem r.ring.phys r.ring.index.val (!r.cso), trace := tr })
      (ring?_transfer hstands) hty q
    rw [armedMem_of_ne h14, armed_of_lt (by omega)]
    exact ⟨tr', hadvance.trans hpass⟩

end

/-! ### The records of the data buffers (R226, R231) -/

/-- Every usable slot holds the Normal record of its own buffer. -/
def HoldsBuffers (m : Memory) (base : Addr) (bufs : List Addr) : Prop :=
  ∀ j, j < 15 → ∃ len, len ≤ Config.bufSize ∧
    slotTrb m base j =
      { param := bufs.getD j 0
        status := BitVec.ofNat 32 len
        control := withCycle 0x424 (slotCycle m base j) }

/-- The Normal records of a ring of which no slot has been handed over are such. -/
theorem holdsBuffers_of_normal {m : Memory} {base : Addr} {bufs : List Addr} {len : Nat} (hlen : len ≤ Config.bufSize)
    (hslots : ∀ j, j < 15 →
      slotTrb m base j = { param := bufs.getD j 0, status := BitVec.ofNat 32 len, control := 0x424 }) :
    HoldsBuffers m base bufs := by
  intro j hj
  have hcontrol : withCycle 0x424 (slotCycle m base j) = 0x424 := by
    have hown := withCycle_trbCycle (slotTrb m base j)
    rwa [congrArg Trb.control (hslots j hj)] at hown
  exact ⟨len, hlen, by rw [hcontrol, hslots j hj]⟩

/-- A change of cycle bits keeps the records. -/
theorem HoldsBuffers.recycled {m m' : Memory} {base : Addr} {bufs : List Addr} (h : HoldsBuffers m base bufs)
    (hm : Recycled base m m') : HoldsBuffers m' base bufs := by
  intro j hj
  obtain ⟨len, hlen, hslot⟩ := h j hj
  refine ⟨len, hlen, ?_⟩
  rw [hm.slots j (by omega), hslot]
  simp only [withCycle_withCycle]

/-- What `TransferRingOk` says of the ring that stands (R231). -/
theorem transferRingOk_iff {s : State} {k : Nat} {r : TransferRing} (h : s.transferRing? k = some r) :
    TransferRingOk s k ↔
      r.lock = .free ∧ ProducerRing s.mem r.ring r.cso ∧ r.buffers.length = 15 ∧
        r.deq.val = (r.ring.index.val + 2) % 15 ∧ HoldsBuffers s.mem r.ring.phys r.buffers := by
  refine ⟨fun hok => ?_, fun hok => ⟨r, h, hok⟩⟩
  obtain ⟨r', hr', hok⟩ := hok
  obtain rfl : r = r' := Option.some.inj (h.symm.trans hr')
  exact hok

/-- An operation that ends with such a ring at the place. -/
theorem transferRingOk_finished {s : State} {k : Nat} {r : TransferRing} (h : s.transferRing? k = some r)
    {r' : TransferRing} {m : Memory} (tr : List Access) (hfree : r'.lock = .free)
    (hring : ProducerRing m r'.ring r'.cso) (hlength : r'.buffers.length = 15)
    (hdeq : r'.deq.val = (r'.ring.index.val + 2) % 15) (hholds : HoldsBuffers m r'.ring.phys r'.buffers) :
    TransferRingOk (State.finish { s.putTransfer k r' with mem := m, trace := tr } .unit) k :=
  ⟨r', transferRing?_putTransfer h r', hfree, hring, hlength, hdeq, hholds⟩

/-! ### `fill_ring` (R227) -/

/-- What a round of the loop does with the ring as it stands, `n` rounds before the end (R227). -/
def fillRound (k n : Nat) (q : Prog) (t : TransferRing) : Prog :=
  if fillDistance t.deq t.ring.index < Config.fillMargin then q
  else advance (.transfer k) (!t.cso) (passLink (.transfer k) (fillLoop k n q))

theorem fillLoop_succ (k n : Nat) (q : Prog) : fillLoop k (n + 1) q = getTransfer k (fillRound k n q) := rfl

section

variable {s : State} {k : Nat} {r : TransferRing} (h : s.transferRing? k = some r) (n : Nat) (q : Prog)

include h

/-- Where the exit distance is reached, the loop ends. -/
theorem comes_fillLoop_stop (hfull : fillDistance r.deq r.ring.index < Config.fillMargin) :
    Comes (fillLoop k (n + 1) q) s q s := by
  have hread := comes_getTransfer h (fillRound k n q)
  rwa [← fillLoop_succ, fillRound, if_pos hfull] at hread

/-- Where it is not, a slot is handed over. -/
theorem comes_fillLoop_round (hm : s.mem.wf = true) (hring : ProducerRing s.mem r.ring r.cso)
    (hroom : ¬fillDistance r.deq r.ring.index < Config.fillMargin) :
    ∃ tr, Comes (fillLoop k (n + 1) q) s (fillLoop k n q)
      { s.putTransfer k r.armed with mem := armedMem s.mem r, trace := tr } := by
  have hread := comes_getTransfer h (fillRound k n q)
  rw [← fillLoop_succ, fillRound, if_neg hroom] at hread
  obtain ⟨tr, hround⟩ := comes_handOver h hm hring (fillLoop k n q)
  exact ⟨tr, hread.trans hround⟩

end

/-- With the dequeue cursor at 0 the exit distance is reached at slot 13. -/
theorem fillDistance_zero_lt_iff (e : Fin 16) (he : e.val ≤ 13) :
    fillDistance 0 e < Config.fillMargin ↔ e.val = 13 := by
  unfold fillDistance Config.fillMargin Config.ringLen
  rw [show (0 : Fin 15).val = 0 from rfl]
  omega

/-- In the steady state it is reached at once (R231). -/
theorem fillDistance_steady {r : TransferRing} (hlast : r.ring.index.val ≤ 14)
    (hdeq : r.deq.val = (r.ring.index.val + 2) % 15) : fillDistance r.deq r.ring.index < Config.fillMargin := by
  unfold fillDistance Config.fillMargin Config.ringLen
  rw [Nat.mod_eq_of_lt (a := r.ring.index.val + 1) (by omega)]
  rcases Nat.lt_or_ge r.ring.index.val 13 with hlt | hge
  · rw [Nat.mod_eq_of_lt (by omega)] at hdeq
    omega
  · omega

/-- The cursor at slot 13, "3 slots before wraparound" (R227). -/
def TransferRing.filled (r : TransferRing) : TransferRing := { r with ring := { r.ring with index := 13 } }

/-- The loop hands over one slot after another, up to slot 13. -/
theorem comes_fillLoop (k : Nat) (q : Prog) : ∀ (n : Nat) {s : State} {r : TransferRing}, s.transferRing? k = some r →
    s.mem.wf = true → ProducerRing s.mem r.ring r.cso → r.deq = 0 → r.ring.index.val ≤ 13 → 13 < r.ring.index.val + n →
    ∃ m tr, Comes (fillLoop k n q) s q { s.putTransfer k r.filled with mem := m, trace := tr } ∧
      Recycled r.ring.phys s.mem m ∧ ProducerRing m r.filled.ring r.cso
  | 0, _, _, _, _, _, _, hle, hn => absurd hn (by omega)
  | n + 1, s, r, h, hm, hring, hdeq, hle, hn => by
    have hexit := fillDistance_zero_lt_iff r.ring.index hle
    rw [← hdeq] at hexit
    by_cases h13 : r.ring.index.val = 13
    case pos =>
      have hfilled : r.filled = r := by
        rw [TransferRing.filled, ← show r.ring.index = 13 from Fin.ext h13]
      have hstop := comes_fillLoop_stop h n q (hexit.2 h13)
      rw [hfilled]
      refine ⟨s.mem, s.trace, ?_, Recycled.refl hm, hring⟩
      rw [putTransfer_self h]
      exact hstop
    case neg =>
      have ⟨hp, hlast, _⟩ := hring
      have harmed := armed_of_lt (r := r) (by omega)
      have hnext : (r.ring.index + 1).val = r.ring.index.val + 1 := index_succ (c := r.producer) hlast
      obtain ⟨tr, hround⟩ := comes_fillLoop_round h n q hm hring (fun hx => h13 (hexit.1 hx))
      have harmedRing := producerRing_armed hm hring
      have hkept := recycled_armedMem hm hp
      rw [harmed] at hround harmedRing
      obtain ⟨m, tr', hrest, hrecycled, hfilled⟩ := comes_fillLoop k q n
        (s := { s.putTransfer k r.advanced with mem := armedMem s.mem r, trace := tr })
        (transferRing?_putTransfer h _) hkept.wf harmedRing hdeq (show (r.ring.index + 1).val ≤ 13 by omega)
        (show 13 < (r.ring.index + 1).val + n by omega)
      refine ⟨m, tr', ?_, hkept.trans hrecycled, hfilled⟩
      rw [← putTransfer_putTransfer s k r.advanced]
      exact hround.trans hrest

section

variable {k : Nat} {s : State} {r : TransferRing} (hs : Unmarked s) (h : s.transferRing? k = some r)
  (hfree : r.lock = .free)

include hs h hfree

/-- An operation under the lock of a Transfer Ring that comes to its result with the ring `r'` at the place. -/
theorem runOp_transfer {p : Prog} {r' : TransferRing} {m : Memory} {tr : List Access}
    (hp : Comes p (s.putTransfer k { r with lock := .held s.agent }) (release (.ring k) (.ret .unit))
      { s.putTransfer k r' with mem := m, trace := tr }) (op : Instr) :
    runOp op (acquire (.ring k) p) s =
      .next (State.finish { s.putTransfer k { r' with lock := .free } with mem := m, trace := tr } .unit) := by
  have hacquire := comes_acquire ((lock?_transfer h).trans (congrArg some hfree)) p
  rw [setLock_eq_putTransfer h] at hacquire
  have hrelease := comes_release (.ring k) (.ret .unit) { s.putTransfer k r' with mem := m, trace := tr }
  rw [setLock_eq_putTransfer (s := { s.putTransfer k r' with mem := m, trace := tr })
    (transferRing?_putTransfer h r')] at hrelease
  have hrun := runOp_ret hs.1 hs.2 ((hacquire.trans hp).trans hrelease) op
  rw [← putTransfer_putTransfer s k r' { r' with lock := .free }]
  exact hrun

/-- `fill_ring` in the steady state does nothing (R231). -/
theorem exec_fillRing_steady (hfull : fillDistance r.deq r.ring.index < Config.fillMargin) :
    exec (.fillRing k) s = .next (s.finish .unit) := by
  have hstands := transferRing?_putTransfer h { r with lock := .held s.agent }
  have hloop := comes_precise (comes_fillLoop_stop hstands 15 (release (.ring k) (.ret .unit)) hfull) rfl
  refine (runOp_transfer hs h hfree hloop (.fillRing k)).trans ?_
  rw [← hfree]
  exact congrArg (fun u : State => Host.Outcome.next (u.finish .unit)) (putTransfer_self h)

/-- `fill_ring` of a new ring (R227). -/
theorem exec_fillRing_new (hm : s.mem.wf = true) (hring : ProducerRing s.mem r.ring r.cso) (hindex : r.ring.index = 0)
    (hdeq : r.deq = 0) :
    ∃ m tr, exec (.fillRing k) s =
        .next (State.finish { s.putTransfer k r.filled with mem := m, trace := tr } .unit) ∧
      Recycled r.ring.phys s.mem m ∧ ProducerRing m r.filled.ring r.cso := by
  have hstands := transferRing?_putTransfer h { r with lock := .held s.agent }
  obtain ⟨m, tr, hloop, hkept⟩ := comes_fillLoop k (release (.ring k) (.ret .unit)) 16 hstands hm hring hdeq
    (by simp [hindex]) (by omega)
  rw [putTransfer_putTransfer] at hloop
  refine ⟨m, tr, (runOp_transfer hs h hfree (comes_precise hloop rfl) (.fillRing k)).trans ?_, hkept⟩
  rw [← hfree]
  rfl

end

/-- A new ring is one between operations: no slot is handed over yet. -/
theorem producerRing_new {m : Memory} {b : RingBuf} (hp : b.Placed) (hindex : b.index = 0)
    (hslots : ∀ j, j < 15 → (slotTrb m b.phys j).control = 0x424)
    (hlink : slotTrb m b.phys 15 = linkRecord b.phys false) : ProducerRing m b false := by
  refine ⟨hp, by simp [hindex], fun j hj => ?_, fun j hj => ?_, hlink⟩
  · rw [hindex, slotCycle, trbCycle, hslots j hj, if_neg (show ¬j < (0 : Fin 16).val from Nat.not_lt_zero j)]
    rfl
  · rw [trbTypeOf, hslots j hj]
    decide

/-- Settles O35: every round hands one slot over, and the exit distance says when the loop ends. -/
theorem fillRingArmsUpToTheMargin : Obligations.FillRingArmsUpToTheMargin := by
  unfold Obligations.FillRingArmsUpToTheMargin
  refine ⟨fun k r len s hs hm h hp hindex hdeq hcso hfree hlength hlen hslots hlink => ?new, fun k s hs hok => ?steady⟩
  case new =>
    have hring := producerRing_new hp hindex (fun j hj => by rw [hslots j hj]) hlink
    rw [← hcso] at hring
    obtain ⟨m, tr, hexec, hkept, hfilled⟩ := exec_fillRing_new hs h hfree hm hring hindex hdeq
    have hcycle {j : Nat} (hj : j < 15) : slotCycle m r.ring.phys j = if j < 13 then true else false := by
      have ⟨_, _, hcycles, _⟩ := hfilled
      rw [hcso] at hcycles
      exact hcycles j hj
    have hholds : HoldsBuffers s.mem r.ring.phys r.buffers := holdsBuffers_of_normal hlen hslots
    have hdeq' : r.filled.deq.val = (r.filled.ring.index.val + 2) % 15 := by
      simp [TransferRing.filled, hdeq]
    refine ⟨_, hexec, transferRingOk_finished h tr (r' := r.filled) hfree hfilled hlength hdeq' (hholds.recycled hkept),
      hkept.outside, fun j hj => ?slot, ?frame⟩
    case slot =>
      refine (hkept.slots j (by omega)).trans ?_
      rw [hcycle hj, hslots j hj]
      simp only [withCycle_normal]
      split <;> rfl
    case frame =>
      rw [setIndex_eq_putTransfer h]
      rfl
  case steady =>
    have ⟨r, h, _⟩ := hok
    obtain ⟨hfree, ⟨_, hlast, _⟩, _, hdeq, _⟩ := (transferRingOk_iff h).1 hok
    exact exec_fillRing_steady hs h hfree (fillDistance_steady hlast hdeq)

/-! ### `dequeue_trb` (R228) -/

/-- What `dequeue_trb` does with the ring as it stands (R228). -/
def dequeueAt (k : Nat) (expected : Addr) (t : TransferRing) : Prog :=
  if slotAt t.ring.phys t.deq.val ≠ expected then .fatal .dequeueAddr
  else
    update (fun s => s.setDeq k (t.deq + 1))
      (precise (advance (.transfer k) (!t.cso) (passLink (.transfer k) (release (.ring k) (.ret .unit)))))

theorem progDequeueTrb_eq (k : Nat) (expected : Addr) :
    progDequeueTrb k expected = acquire (.ring k) (getTransfer k (dequeueAt k expected)) := rfl

/-- The ring after `dequeue_trb`: both cursors have moved on. -/
def TransferRing.rearmed (r : TransferRing) : TransferRing := { r.armed with deq := r.deq + 1 }

section

variable {k : Nat} {s : State} {r : TransferRing} (hs : Unmarked s) (h : s.transferRing? k = some r)
  (hfree : r.lock = .free)

include hs h hfree

/-- `dequeue_trb` of the address of the slot at the dequeue cursor, between operations of the ring. -/
theorem exec_dequeueTrb (hm : s.mem.wf = true) (hring : ProducerRing s.mem r.ring r.cso) :
    ∃ tr, exec (.dequeueTrb k (slotAt r.ring.phys r.deq.val)) s =
      .next (State.finish { s.putTransfer k r.rearmed with mem := armedMem s.mem r, trace := tr } .unit) := by
  have hread := comes_getTransfer (transferRing?_putTransfer h { r with lock := .held s.agent })
    (dequeueAt k (slotAt r.ring.phys r.deq.val))
  rw [dequeueAt, if_neg (not_not.2 rfl)] at hread
  have hdeq := hread.trans (comes_update _ _ _)
  rw [setDeq_eq_putTransfer (transferRing?_putTransfer h _), putTransfer_putTransfer] at hdeq
  obtain ⟨tr, hhanded⟩ := comes_handOver
    (transferRing?_putTransfer h { r with lock := .held s.agent, deq := r.deq + 1 }) hm hring
    (release (.ring k) (.ret .unit))
  rw [putTransfer_putTransfer] at hhanded
  have hrun := runOp_transfer hs h hfree (hdeq.trans (comes_precise hhanded rfl))
  rw [← progDequeueTrb_eq] at hrun
  refine ⟨tr, (hrun _).trans ?_⟩
  rw [← hfree]
  rfl

/-- Of any other address it is fatal, with the lock held (R304, R314). -/
theorem exec_dequeueTrb_fatal {expected : Addr} (hexpected : slotAt r.ring.phys r.deq.val ≠ expected) :
    exec (.dequeueTrb k expected) s = .next (raiseFatal .dequeueAddr (held (.transfer k) s)) := by
  have hread := comes_getTransfer (transferRing?_setLock h (.held s.agent)) (dequeueAt k expected)
  rw [dequeueAt, if_pos hexpected] at hread
  have hrun := (comes_acquire ((lock?_transfer h).trans (congrArg some hfree)) _).trans hread
  rw [← progDequeueTrb_eq] at hrun
  exact runOp_fatal hs.1 hs.2 hrun _

end

/-- The dequeue cursor stays two usable slots ahead of the enqueue cursor (R231). -/
theorem rearmed_deq {r : TransferRing} (hdeq : r.deq.val = (r.ring.index.val + 2) % 15) :
    r.rearmed.deq.val = (r.rearmed.ring.index.val + 2) % 15 := by
  show (r.deq + 1).val = (nextUsable r.ring.index.val + 2) % 15
  rw [Fin.val_add, hdeq, nextUsable]
  show ((r.ring.index.val + 2) % 15 + 1) % 15 = _
  omega

/-- Settles O36: the address is checked, then the dequeue cursor moves on and one slot is handed over. -/
theorem dequeueTrbRearmsOneSlotOrIsFatal : Obligations.DequeueTrbRearmsOneSlotOrIsFatal := by
  unfold Obligations.DequeueTrbRearmsOneSlotOrIsFatal
  refine ⟨fun k r s hs hm h hok => ?rearms, fun k r expected s hs h hfree hexpected => ?fatal⟩
  case rearms =>
    obtain ⟨hfree, hring, hlength, hdeq, hholds⟩ := (transferRingOk_iff h).1 hok
    have ⟨hp, _⟩ := hring
    have hkept := recycled_armedMem hm hp
    obtain ⟨tr, hexec⟩ := exec_dequeueTrb hs h hfree hm hring
    have hsteady := transferRingOk_finished h tr (r' := r.rearmed) hfree (producerRing_armed hm hring) hlength
      (rearmed_deq hdeq) (hholds.recycled hkept)
    exact ⟨_, r.rearmed.ring.index, r.deq + 1, hexec, rfl, Fin.val_add _ _, hsteady, hkept.wf,
      slotTrb_armedMem_cursor hm hring, fun a ha hlink => read_armedMem_outside hm hp ha hlink, rfl⟩
  case fatal => exact exec_dequeueTrb_fatal hs h hfree hexpected.symm

end Sys2Proof.Machine
end

section
/-! SUPPORT. A new Transfer Ring (R226): the sixteen allocations, one after another, and the records stored into the
zeroed ring. -/

namespace Sys2Proof.Machine

open Sys2Proof

/-! ### The sixteen blocks (R226, R290) -/

/-- The block of a data buffer. -/
def bufferBlock (b : Addr) : Alloc := { base := b, size := 4096, kind := .buffer }

/-- The blocks of data buffers, the last one made first. -/
def bufferBlocks (bufs : List Addr) : List Alloc := (bufs.map bufferBlock).reverse

theorem bufferBlocks_cons (b : Addr) (bufs : List Addr) (made : List Alloc) :
    bufferBlocks (b :: bufs) ++ made = bufferBlocks bufs ++ bufferBlock b :: made := by
  simp [bufferBlocks]

/-- The byte belongs to one of the buffers. -/
theorem inBlocks_bufferBlocks {bufs : List Addr} {x : Nat} :
    InBlocks (bufferBlocks bufs) x ↔ ∃ b ∈ bufs, b.toNat ≤ x ∧ x < b.toNat + 4096 := by
  simp [InBlocks, bufferBlocks, bufferBlock]

theorem inBlocks_append {made made' : List Alloc} {x : Nat} :
    InBlocks (made ++ made') x ↔ InBlocks made x ∨ InBlocks made' x := by
  simp [InBlocks, or_and_right, exists_or]

/-- The answer fixed in advance is the one drawn (log 4). -/
theorem draw_of_supply {s : State} {w : Word64} {ws : List Word64} (h : s.supply = w :: ws) :
    s.draw = (w, { s with supply := ws }) := by simp [State.draw, h]

/-- An answer is admissible after one more block has been made if it was so before and the two are apart. -/
theorem admissible_withBlock {s : State} {size align size' : Nat} {kind : AllocKind} {p : Addr} :
    admissible (s.withBlock size' kind) size align p =
      (apart p.toNat size s.draw.1.toNat size' && admissible s size align p) := by
  have hunfold : admissible (s.withBlock size' kind) size align p =
      (decide (p.toNat % align = 0) && decide (p.toNat + size ≤ 2 ^ 64) &&
        (apart p.toNat size s.draw.1.toNat size' &&
          s.allocs.all (fun a => apart p.toNat size a.base.toNat a.size)) &&
        apart p.toNat size s.cfg.mmioBase.toNat s.cap.caplength.toNat &&
        apart p.toNat size (opBase s) (opSize s) && apart p.toNat size (dbBase s) (dbSize s)) := rfl
  rw [hunfold, admissible]
  ac_rfl

/-- The blocks `made` have been allocated since `s`, and the answers left are `rest`. -/
structure Drawn (s u : State) (made : List Alloc) (rest : List Word64) : Prop where
  made : Made s u made
  wf : u.mem.wf = true
  supply : u.supply = rest
  drawn : u.drawn = s.drawn

/-- One more admissible answer. -/
theorem Drawn.allocate {s u : State} {made : List Alloc} {p : Addr} {rest : List Word64}
    (h : Drawn s u made (p :: rest)) {size align : Nat} (hadm : admissible u size align p = true) (kind : AllocKind)
    (f : Addr → Prog) :
    Comes (allocate size align kind f) u (f p) (u.withBlock size kind) ∧
      Drawn s (u.withBlock size kind) ({ base := p, size := size, kind := kind } :: made) rest := by
  have hdraw := draw_of_supply h.supply
  have hp : u.draw.1 = p := congrArg Prod.fst hdraw
  have hcomes := comes_allocate_of_admissible (hp ▸ hadm) kind f
  have hmade := h.made.withBlock size kind
  rw [hp] at hcomes hmade
  refine ⟨hcomes, hmade, Memory.clear_wf h.wf _ _, ?supply, ?drawn⟩
  case supply => rw [State.withBlock, hdraw]
  case drawn =>
    rw [State.withBlock, hdraw]
    exact h.drawn

/-- The data buffers, one after another. -/
theorem comes_allocBuffers (s : State) (rest : List Word64) (f : List Addr → Prog) :
    ∀ (bufs acc : List Addr) {u : State} {made : List Alloc}, Drawn s u made (bufs ++ rest) →
      (∀ b ∈ bufs, admissible u 4096 4096 b = true) →
      bufs.Pairwise (fun a b => apart a.toNat 4096 b.toNat 4096 = true) →
      ∃ v, Comes (allocBuffers bufs.length acc f) u (f (acc ++ bufs)) v ∧ Drawn s v (bufferBlocks bufs ++ made) rest
  | [], acc, u, _, h, _, _ => ⟨u, by rw [List.append_nil]; exact Comes.refl _ u, h⟩
  | b :: bufs, acc, u, made, h, hadm, hapart => by
    obtain ⟨hhead, htail⟩ := List.pairwise_cons.1 hapart
    obtain ⟨hcomes, hdrawn⟩ := h.allocate (hadm b List.mem_cons_self) .buffer fun b =>
      allocBuffers bufs.length (acc ++ [b]) f
    have hb : u.draw.1 = b := congrArg Prod.fst (draw_of_supply h.supply)
    have hadm' : ∀ b' ∈ bufs, admissible (u.withBlock 4096 .buffer) 4096 4096 b' = true := fun b' hb' => by
      rw [admissible_withBlock, hb, apart_comm, hhead b' hb', hadm b' (List.mem_cons_of_mem b hb')]
      rfl
    obtain ⟨v, hrest, hall⟩ := comes_allocBuffers s rest f bufs (acc ++ [b]) hdrawn hadm' htail
    rw [List.append_assoc] at hrest
    rw [bufferBlocks_cons]
    exact ⟨v, hcomes.trans hrest, hall⟩

/-! ### The records (R226) -/

/-- The Normal record of a buffer, not yet handed over (R106). -/
def bufferRecord (b : Addr) (len : Nat) : Trb := { param := b, status := BitVec.ofNat 32 len, control := 0x424 }

/-- The record that `TransferRing::new` stores (R152, R226). -/
theorem normalTrb_eq_bufferRecord (b : Addr) {len : Nat} (hlen : len ≤ 4096) :
    normalTrb .standard b (BitVec.ofNat 17 len) = bufferRecord b len := by
  rw [normalTrb_standard, length_ofNat (by omega)]
  rfl

theorem bufferRecord_withCycle_false (b : Addr) (len : Nat) :
    { bufferRecord b len with control := withCycle (bufferRecord b len).control false } = bufferRecord b len := by
  have hcontrol : withCycle (bufferRecord b len).control false = (bufferRecord b len).control := withCycle_normal false
  rw [hcontrol]

section

variable {base : Addr} (hp : base.toNat + 256 ≤ 2 ^ 64) {len : Nat} (hlen : len ≤ 4096)

/-- The memory after the records of `bufs` have been stored into the slots from slot `i` on. -/
def withRecords (base : Addr) (len : Nat) : Nat → List Addr → Memory → Memory
  | _, [], m => m
  | i, b :: bufs, m => withRecords base len (i + 1) bufs (putTrb m (slotAt base i) (bufferRecord b len))

theorem withRecords_wf : ∀ (bufs : List Addr) (i : Nat) {m : Memory}, m.wf = true →
    (withRecords base len i bufs m).wf = true
  | [], _, _, h => h
  | _ :: bufs, i, _, h => withRecords_wf bufs (i + 1) (putTrb_wf h _ _)

include hp

/-- Slot `i` and those behind it hold the records, and the others what they held. -/
theorem slotTrb_withRecords {j : Nat} (hj : j < 16) : ∀ (bufs : List Addr) (i : Nat) {m : Memory}, m.wf = true →
    i + bufs.length ≤ 16 →
    slotTrb (withRecords base len i bufs m) base j =
      if i ≤ j ∧ j < i + bufs.length then bufferRecord (bufs.getD (j - i) 0) len else slotTrb m base j
  | [], i, m, _, _ => (if_neg (by simp only [List.length_nil]; omega)).symm
  | b :: bufs, i, m, hm, hi => by
    rw [List.length_cons] at hi ⊢
    rw [withRecords, slotTrb_withRecords hj bufs (i + 1) (putTrb_wf hm _ _) (by omega),
      slotTrb_putTrb hm hp (by omega) hj]
    by_cases hji : j = i
    · subst hji
      rw [if_neg (by omega), if_pos rfl, if_pos (by omega), Nat.sub_self, List.getD_cons_zero]
    · rw [if_neg hji]
      by_cases hin : i + 1 ≤ j ∧ j < i + 1 + bufs.length
      · rw [if_pos hin, if_pos (by omega), show j - i = j - (i + 1) + 1 by omega, List.getD_cons_succ]
      · rw [if_neg hin, if_neg (by omega)]

/-- Outside the ring every byte reads as before. -/
theorem read_withRecords_outside {x : Nat} (hx : x < base.toNat ∨ base.toNat + 256 ≤ x) :
    ∀ (bufs : List Addr) (i : Nat) {m : Memory}, m.wf = true → i + bufs.length ≤ 16 →
      (withRecords base len i bufs m).read x = m.read x
  | [], _, _, _, _ => rfl
  | b :: bufs, i, m, hm, hi => by
    rw [List.length_cons] at hi
    have hslot := slotAt_toNat hp (i := i) (by omega)
    rw [withRecords, read_withRecords_outside hx bufs (i + 1) (putTrb_wf hm _ _) (by omega),
      read_putTrb_outside hm (by omega) _ (by omega)]

include hlen

/-- The stores into slots whose cycle bit is 0. -/
theorem comes_storeBuffers_zeroed (q : Prog) (bufs : List Addr) (i : Nat) {s : State} (hm : s.mem.wf = true)
    (hi : i + bufs.length ≤ 15) (hzero : ∀ j, i ≤ j → j < 15 → slotCycle s.mem base j = false) :
    ∃ tr, Comes (storeBuffers .standard base (BitVec.ofNat 17 len) i bufs q) s q
      { s with mem := withRecords base len i bufs s.mem, trace := tr } := by
  induction bufs generalizing i s with
  | nil => exact ⟨s.trace, Comes.refl q s⟩
  | cons b bufs ih =>
    rw [List.length_cons] at hi
    have hslot := slotAt_toNat hp (i := i) (by omega)
    obtain ⟨tr, hstore⟩ := comes_storeTrb (a := slotAt base i) (by omega) (normalTrb .standard b (BitVec.ofNat 17 len))
      (storeBuffers .standard base (BitVec.ofNat 17 len) (i + 1) bufs q) s
    have hcycle : trbCycle (s.mem.readTrb (slotAt base i)) = false := hzero i (le_refl i) (by omega)
    rw [hcycle, normalTrb_eq_bufferRecord b hlen, bufferRecord_withCycle_false] at hstore
    have hzero' : ∀ j, i + 1 ≤ j → j < 15 →
        slotCycle (putTrb s.mem (slotAt base i) (bufferRecord b len)) base j = false := fun j hij hj => by
      rw [slotCycle, slotTrb_putTrb hm hp (by omega) (by omega), if_neg (by omega)]
      exact hzero j (by omega) hj
    have hm' : (putTrb s.mem (slotAt base i) (bufferRecord b len)).wf = true := putTrb_wf hm _ _
    rw [storeBuffers, normalTrb_eq_bufferRecord b hlen, withRecords]
    generalize putTrb s.mem (slotAt base i) (bufferRecord b len) = m at hstore hzero' hm' ⊢
    obtain ⟨tr', hrest⟩ := ih (i + 1) (s := { s with mem := m, trace := tr }) hm' (by omega) hzero'
    exact ⟨tr', hstore.trans hrest⟩

end

/-! ### The new ring (R226) -/

/-- The memory after a Transfer Ring has been made at `p`, in the zeroed blocks of `m`. -/
def newTransferMem (m : Memory) (p : Addr) (bufs : List Addr) (len : Nat) : Memory :=
  putTrb (withRecords p len 0 bufs m) (slotAt p 15) (linkRecord p false)

section

variable {m : Memory} (hm : m.wf = true) {p : Addr} (hp : p.toNat + 256 ≤ 2 ^ 64) {bufs : List Addr}
  (hlength : bufs.length = 15) {len : Nat}

include hm hp hlength

theorem slotTrb_newTransferMem {j : Nat} (hj : j < 16) :
    slotTrb (newTransferMem m p bufs len) p j =
      if j = 15 then linkRecord p false else bufferRecord (bufs.getD j 0) len := by
  rw [newTransferMem, slotTrb_putTrb (withRecords_wf bufs 0 hm) hp (by decide) hj,
    slotTrb_withRecords hp hj bufs 0 hm (by omega)]
  by_cases h15 : j = 15
  · rw [if_pos h15, if_pos h15]
  · rw [if_neg h15, if_neg h15, if_pos (by omega), Nat.sub_zero]

theorem read_newTransferMem_outside {x : Nat} (hx : x < p.toNat ∨ p.toNat + 256 ≤ x) :
    (newTransferMem m p bufs len).read x = m.read x := by
  have hslot := slotAt_toNat hp (i := 15) (by decide)
  rw [newTransferMem, read_putTrb_outside (withRecords_wf bufs 0 hm) (by omega) _ (by omega),
    read_withRecords_outside hp hx bufs 0 hm (by omega)]

end

/-- A slot whose bytes are 0 has the cycle bit 0 (R292). -/
theorem slotCycle_of_zeroed {m : Memory} {p : Addr} (hp : p.toNat + 256 ≤ 2 ^ 64)
    (hzero : ∀ x, p.toNat ≤ x → x < p.toNat + 256 → m.read x = 0) {j : Nat} (hj : j < 16) :
    slotCycle m p j = false := by
  have hcontrol := slotAt_add_twelve_toNat hp hj
  have hword : (slotTrb m p j).control = (0 : Word64).setWidth 32 :=
    congrArg (BitVec.setWidth 32) (Memory.readWord_eq_zero fun i hi => hzero _ (by omega) (by omega))
  rw [slotCycle, trbCycle, hword]
  rfl

/-- The records and the Link are stored into a zeroed ring, then the ring takes its place. -/
theorem comes_transferRing_stores {u : State} {p : Addr} {bufs : List Addr} {len : Nat} (hm : u.mem.wf = true)
    (hp : p.toNat + 256 ≤ 2 ^ 64) (hlength : bufs.length = 15) (hlen : len ≤ 4096)
    (hzero : ∀ x, p.toNat ≤ x → x < p.toNat + 256 → u.mem.read x = 0) (k : Nat) (q : Prog) :
    ∃ tr, Comes
      (storeBuffers .standard p (BitVec.ofNat 17 len) 0 bufs
        (storeLink p (update (installTransferRing k p bufs) q)))
      u q
      (installTransferRing k p bufs { u with mem := newTransferMem u.mem p bufs len, trace := tr }) := by
  have hcycles {j : Nat} (hj : j < 16) := slotCycle_of_zeroed hp hzero hj
  obtain ⟨tr, hrecords⟩ := comes_storeBuffers_zeroed hp hlen (storeLink p (update (installTransferRing k p bufs) q))
    bufs 0 hm (by omega) fun j _ hj => hcycles (by omega)
  obtain ⟨tr', hlink⟩ := comes_storeLink hp (update (installTransferRing k p bufs) q)
    { u with mem := withRecords p len 0 bufs u.mem, trace := tr }
  have hcycle : slotCycle (withRecords p len 0 bufs u.mem) p 15 = false := by
    rw [slotCycle, slotTrb_withRecords hp (by decide) bufs 0 hm (by omega), if_neg (by omega)]
    exact hcycles (by decide)
  rw [hcycle] at hlink
  exact ⟨tr', (hrecords.trans hlink).trans (comes_update _ _ _)⟩

/-- What `TransferRing::new` does once its operand is checked, at the layout of R105. -/
def makeTransferRing (k len : Nat) : Prog :=
  allocate 256 4096 .ring fun p =>
    allocBuffers 15 [] fun bufs =>
      storeBuffers .standard p (BitVec.ofNat 17 len) 0 bufs
        (storeLink p (update (installTransferRing k p bufs) (.ret (.region p 256))))

theorem comes_makeTransferRing {k : Nat} {s : State} (hl : StandardLayout s) (hlen : s.cfg.trTransferLen ≤ 4096)
    (hk : k ≤ s.transferRings.length) :
    Comes (progTransferRingNew k) s (makeTransferRing k s.cfg.trTransferLen) s := by
  have hparams : Comes (progTransferRingNew k) s _ s := comes_getParams _ s
  rw [hl] at hparams
  exact (hparams.trans (comes_needs (decide_eq_true hlen) _ _ s)).trans (comes_require (decide_eq_true hk) _ _)

/-- A configured length above the size of a buffer is refused (R226, R306). -/
theorem exec_transferRingNew_refused {k : Nat} {s : State} (hs : Unmarked s) (hlen : 4096 < s.cfg.trTransferLen) :
    exec (.transferRingNew k) s = .next (raiseRefusal .transferLen s) := by
  have htoo : ¬decide (s.cfg.trTransferLen ≤ Config.bufSize) = true := fun hfits =>
    absurd (of_decide_eq_true hfits) (Nat.not_le.2 hlen)
  have hparams : Comes (progTransferRingNew k) s _ s := comes_getParams _ s
  rw [needs, if_neg htoo] at hparams
  exact runOp_refuse hs.1 hs.2 hparams _

/-- The state in which the blocks `made` have been allocated. -/
theorem Drawn.frame {s u : State} {made : List Alloc} {rest : List Word64} (h : Drawn s u made rest) :
    u = { s with mem := u.mem, allocs := made ++ s.allocs, supply := rest } := by
  obtain ⟨⟨-, -, m, w, d, rfl⟩, -, rfl, hdrawn⟩ := h
  obtain rfl : d = s.drawn := hdrawn
  rfl

/-- The blocks of a new Transfer Ring (R226). -/
def transferBlocks (p : Addr) (bufs : List Addr) : List Alloc :=
  bufferBlocks bufs ++ [{ base := p, size := 256, kind := .ring }]

/-- What the allocator answers for a new Transfer Ring: a block for the ring and fifteen for its buffers, admissible and
apart (R226, R290). -/
structure TransferAnswers (s : State) (p : Addr) (bufs rest : List Word64) : Prop where
  supply : s.supply = p :: (bufs ++ rest)
  length : bufs.length = 15
  ring : admissible s 256 4096 p = true
  buffers : ∀ b ∈ bufs, admissible s 4096 4096 b = true
  ringApart : ∀ b ∈ bufs, apart p.toNat 256 b.toNat 4096 = true
  buffersApart : bufs.Pairwise fun a b => apart a.toNat 4096 b.toNat 4096 = true

section

variable {s : State} {p : Addr} {bufs rest : List Word64} (h : TransferAnswers s p bufs rest) (hm : s.mem.wf = true)

include h

theorem TransferAnswers.placed : p.toNat + 256 ≤ 2 ^ 64 := by
  obtain ⟨hplaced, -⟩ := allocOk_of_admissible (kind := .ring) ⟨rfl, rfl⟩ h.ring
  exact hplaced

/-- No byte of a buffer is one of the ring's. -/
theorem TransferAnswers.outside_of_buffer {b : Addr} (hb : b ∈ bufs) {x : Nat} (hlo : b.toNat ≤ x)
    (hhi : x < b.toNat + 4096) : x < p.toNat ∨ p.toNat + 256 ≤ x := by
  have hapart := h.ringApart b hb
  simp only [apart, Bool.or_eq_true, decide_eq_true_eq] at hapart
  omega

include hm

/-- The sixteen allocations (R226). -/
theorem comes_transferBlocks (f : Addr → List Addr → Prog) :
    ∃ u, Comes (allocate 256 4096 .ring fun p => allocBuffers 15 [] (f p)) s (f p bufs) u ∧
      Drawn s u (transferBlocks p bufs) rest := by
  have hstart : Drawn s s [] (p :: (bufs ++ rest)) := ⟨Made.refl s, hm, h.supply, rfl⟩
  obtain ⟨hring, hdrawn⟩ := hstart.allocate h.ring .ring fun p => allocBuffers 15 [] (f p)
  have hp : s.draw.1 = p := congrArg Prod.fst (draw_of_supply h.supply)
  have hadm : ∀ b ∈ bufs, admissible (s.withBlock 256 .ring) 4096 4096 b = true := fun b hb => by
    rw [admissible_withBlock, hp, apart_comm, h.ringApart b hb, h.buffers b hb]
    rfl
  obtain ⟨u, hbuffers, hall⟩ := comes_allocBuffers s rest (f p) bufs [] hdrawn hadm h.buffersApart
  rw [h.length] at hbuffers
  exact ⟨u, hring.trans hbuffers, hall⟩

end

/-- The ring takes its place, and the operation ends. -/
theorem installTransferRing_finish (k : Nat) (p : Addr) (bufs : List Addr) (s : State) (made : List Alloc) (m : Memory)
    (rest : List Word64) (tr : List Access) (r : Result) :
    (installTransferRing k p bufs
        { s with mem := m, allocs := made ++ s.allocs, supply := rest, trace := tr }).finish r =
      { replaced (.ring (.transfer k)) made m (s.finish r) with
        transferRings :=
          putAt s.transferRings k
            { ring := { phys := p, index := 0 }, deq := 0, cso := false, buffers := bufs, lock := .free }
        supply := rest
        trace := tr } := by
  have hreach : inReach { s with mem := m, allocs := made ++ s.allocs, supply := rest, trace := tr } =
      inReach { s.finish r with allocs := made ++ s.allocs, mem := m } := funext (inReach_congr rfl rfl rfl)
  unfold installTransferRing replaced freeAllocs
  rw [hreach]
  rfl

/-- `TransferRing::new` (R226): the blocks, the records, the Link, then the ring takes its place. -/
theorem exec_transferRingNew {k : Nat} {s : State} {p : Addr} {bufs rest : List Word64} (hs : Unmarked s)
    (hl : StandardLayout s) (hm : s.mem.wf = true) (hk : k ≤ s.transferRings.length)
    (hlen : s.cfg.trTransferLen ≤ 4096) (h : TransferAnswers s p bufs rest) :
    ∃ m tr, Made s { s with mem := m, allocs := transferBlocks p bufs ++ s.allocs, supply := rest }
        (transferBlocks p bufs) ∧ m.wf = true ∧
      exec (.transferRingNew k) s =
        .next
          { replaced (.ring (.transfer k)) (transferBlocks p bufs) (newTransferMem m p bufs s.cfg.trTransferLen)
              (s.finish (.region p 256)) with
            transferRings :=
              putAt s.transferRings k
                { ring := { phys := p, index := 0 }, deq := 0, cso := false, buffers := bufs, lock := .free }
            supply := rest
            trace := tr } := by
  obtain ⟨u, hblocks, hdrawn⟩ := comes_transferBlocks h hm fun p bufs =>
    storeBuffers .standard p (BitVec.ofNat 17 s.cfg.trTransferLen) 0 bufs
      (storeLink p (update (installTransferRing k p bufs) (.ret (.region p 256))))
  have hzero : ∀ x, p.toNat ≤ x → x < p.toNat + 256 → u.mem.read x = 0 := fun x hlo hhi =>
    hdrawn.made.zeroed x (inBlocks_append.2 (.inr (inBlocks_cons.2 (.inl ⟨hlo, hhi⟩))))
  obtain ⟨tr, hstores⟩ := comes_transferRing_stores hdrawn.wf h.placed h.length hlen hzero k (.ret (.region p 256))
  have hrun := runOp_ret hs.1 hs.2 (((comes_makeTransferRing hl hlen hk).trans hblocks).trans hstores)
    (.transferRingNew k)
  have hframe := hdrawn.frame
  have hmade := hdrawn.made
  rw [hframe] at hmade
  refine ⟨u.mem, tr, hmade, hdrawn.wf, hrun.trans (congrArg Host.Outcome.next ?_)⟩
  generalize newTransferMem u.mem p bufs s.cfg.trTransferLen = m
  rw [hframe]
  exact installTransferRing_finish k p bufs s _ m rest tr _

/-- Settles O34: the sixteen blocks are made and zeroed, then the records stored, then the ring takes its place. -/
theorem transferRingNewPopulatesEverySlot : Obligations.TransferRingNewPopulatesEverySlot := by
  unfold Obligations.TransferRingNewPopulatesEverySlot
  intro k p bufs rest s hs hl hm hk
  refine ⟨fun hlen hsupply hlength hring hbuffers hringApart hbuffersApart => ?makes,
    fun hlen => exec_transferRingNew_refused hs hlen⟩
  have h : TransferAnswers s p bufs rest := ⟨hsupply, hlength, hring, hbuffers, hringApart, hbuffersApart⟩
  obtain ⟨m, tr, hmade, hwf, hexec⟩ := exec_transferRingNew hs hl hm hk hlen h
  have hslots {j : Nat} (hj : j < 16) :=
    slotTrb_newTransferMem hwf h.placed hlength (len := s.cfg.trTransferLen) hj
  have houtside {x : Nat} (hx : x < p.toNat ∨ p.toNat + 256 ≤ x) :=
    read_newTransferMem_outside hwf h.placed hlength (len := s.cfg.trTransferLen) hx
  generalize newTransferMem m p bufs s.cfg.trTransferLen = m' at hexec hslots houtside
  refine ⟨_, hexec, fun j hj => (hslots (by omega)).trans (if_neg (by omega)), hslots (by decide),
    fun b hb x hlo hhi => ?zeroed, fun x hx hbufs => ?kept, rfl⟩
  case zeroed =>
    exact (houtside (h.outside_of_buffer hb hlo hhi)).trans
      (hmade.zeroed x (inBlocks_append.2 (.inl (inBlocks_bufferBlocks.2 ⟨b, hb, hlo, hhi⟩))))
  case kept =>
    refine (houtside hx).trans (hmade.kept x fun hin => ?_)
    rcases inBlocks_append.1 hin with hin | hin
    · obtain ⟨b, hb, hlo, hhi⟩ := inBlocks_bufferBlocks.1 hin
      have := hbufs b hb
      omega
    · obtain ⟨l, hl, hlo, hhi⟩ := hin
      obtain rfl := List.mem_singleton.1 hl
      simp only at hlo hhi
      omega

end Sys2Proof.Machine
end

section
/-! SUPPORT. The two CPU agents share one CPU (R6, R318): a turn of the one that has it leaves the context of the other
as it is. -/

namespace Sys2Proof.Machine

open Sys2Proof

/-! ### What a running agent leaves as it is -/

/-- In `u` the agent of `s` still has the CPU, a handler is active if one was, and the other agent's context is as it
was. -/
def Beside (s u : State) : Prop :=
  u.cpu = s.cpu ∧ u.handlerActive = s.handlerActive ∧ (s.cpu = .ih → u.sw = s.sw) ∧ (s.cpu = .sw → u.ih = s.ih)

theorem Beside.refl (s : State) : Beside s s := ⟨rfl, rfl, fun _ => rfl, fun _ => rfl⟩

/-- The running agent writes its own context only. -/
theorem beside_setCtx {s u : State} (h : Beside s u) (c : Ctx) : Beside s (u.setCtx c) := by
  obtain ⟨hcpu, hactive, hsw, hih⟩ := h
  refine ⟨hcpu, hactive, fun hs => ?_, fun hs => ?_⟩
  · have hu : u.cpu = .ih := hcpu.trans hs
    simpa [State.setCtx, hu] using hsw hs
  · have hu : u.cpu = .sw := hcpu.trans hs
    simpa [State.setCtx, hu] using hih hs

/-- No access and no update of an operation touches the contexts or the choice of the agent. -/
theorem stable_beside (s : State) : Stable (Beside s) where
  log _ _ _ _ _ h := h
  draw _ h := h
  read _ _ _ _ _ h e := by rw [readLoc_frame e]; exact h
  write _ _ _ _ _ h e := by rw [writeLoc_frame e]; exact h
  lock _ _ _ h := h
  index _ _ _ h := h
  move _ _ _ h := h
  cso _ _ _ h := h
  deq _ _ _ h := h
  eventCso _ _ h := h
  restart _ h := h
  installRing _ place _ h := by cases place <;> exact h
  installCommandRing _ _ h := h
  installTransferRing _ _ _ _ h := h
  installPinned _ _ _ _ h := h
  installDcbaa _ _ h := h
  alloc _ _ _ _ h _ _ := h

theorem ends_beside (s : State) : Ends (Beside s) where
  finish _ _ h := beside_setCtx h _
  suspend _ _ _ _ h := beside_setCtx h _
  fatal _ _ h := beside_setCtx h _
  refuse _ _ h := beside_setCtx h _

/-! ### The turns of the running agent -/

/-- An agent with nothing left to run. -/
abbrev Idle (s : State) : Prop := s.ctx.current = none ∧ s.ctx.program = []

theorem cpuAction_of_idle {s : State} (hs : Unmarked s) (h : Idle (dispatch s)) :
    cpuAction s = .done (.next (agentIdle (dispatch s))) := by
  obtain ⟨hcurrent, hprogram⟩ := h
  rw [cpuAction, cpuTurn_of_unmarked hs.1 hs.2]
  simp only [hcurrent, hprogram]

theorem accessAction_of_idle {s : State} (hs : Unmarked s) (h : Idle (dispatch s)) :
    accessAction s = .done (.next (agentIdle (dispatch s))) := by
  obtain ⟨hcurrent, hprogram⟩ := h
  rw [accessAction, cpuTurn_of_unmarked hs.1 hs.2]
  simp only [hcurrent, hprogram]

/-- What a CPU agent has before it: the operation in progress, the next of its list, or nothing. -/
theorem agent_cases (s : State) :
    (∃ op, s.ctx.current = some op) ∨ (∃ i rest, s.ctx.current = none ∧ s.ctx.program = i :: rest) ∨ Idle s := by
  cases hcurrent : s.ctx.current with
  | some op => exact .inl ⟨op, rfl⟩
  | none =>
    cases hprogram : s.ctx.program with
    | cons i rest => exact .inr (.inl ⟨i, rest, rfl, rfl⟩)
    | nil => exact .inr (.inr ⟨hcurrent, hprogram⟩)

/-- What an action comes to. -/
def Action.outcome : Action → Host.Outcome State Fault Refusal
  | .exec i s => Machine.exec i s
  | .done o => o

theorem step_turn (s : State) (turn : Turn) (ts : List Turn) :
    step { s with turns := turn :: ts } = (turnAction turn { s with turns := ts }).outcome := by
  simp only [step, nextAction]
  cases turnAction turn { s with turns := ts } <;> rfl

/-- A whole turn of the running agent keeps to its side of the state, or finds nothing to run. -/
theorem cpuAction_beside {s t : State} (hs : Unmarked s) (h : (cpuAction s).outcome = .next t) :
    Beside (dispatch s) t ∨ t = agentIdle (dispatch s) := by
  have hstart := Beside.refl (dispatch s)
  rcases agent_cases (dispatch s) with ⟨op, hop⟩ | ⟨i, rest, hcurrent, hprogram⟩ | hidle
  · rw [cpuAction_of_current hs hop] at h
    cases h
    exact .inl (run_keeps (ends_beside _) _ _ _ _ (feed_keeps _ _ (progOf_keeps (stable_beside _) _ _)) hstart)
  · rw [cpuAction_of_program hs hcurrent hprogram, Action.outcome, exec_takeOp] at h
    have htake : Beside (dispatch s) (takeOp rest (dispatch s)) := beside_setCtx hstart _
    exact .inl (runOp_keeps (ends_beside _) (progOf_keeps (stable_beside _) _ i) htake h)
  · rw [cpuAction_of_idle hs hidle] at h
    cases h
    exact .inr rfl

/-- So does a turn of one access (R329). -/
theorem accessAction_beside {s t : State} (hs : Unmarked s) (h : (accessAction s).outcome = .next t) :
    Beside (dispatch s) t ∨ t = agentIdle (dispatch s) := by
  have hstart := Beside.refl (dispatch s)
  rcases agent_cases (dispatch s) with ⟨op, hop⟩ | ⟨i, rest, hcurrent, hprogram⟩ | hidle
  · rw [accessAction_of_current hs hop] at h
    cases h
    exact .inl (runOne_keeps (ends_beside _) _ _ (feed_keeps _ _ (progOf_keeps (stable_beside _) _ _)) hstart)
  · rw [accessAction_of_program hs hcurrent hprogram] at h
    cases h
    have htake : Beside (dispatch s) (takeOp rest (dispatch s)) := beside_setCtx hstart _
    exact .inl (runOne_keeps (ends_beside _) _ _ (progOf_keeps (stable_beside _) _ i) htake)
  · rw [accessAction_of_idle hs hidle] at h
    cases h
    exact .inr rfl

/-- And so does a drop of an owner (R295). -/
theorem dropAction_beside {s t : State} {o : Owned} (hs : Unmarked s) (h : (dropAction o s).outcome = .next t) :
    Beside (dispatch s) t := by
  rw [dropAction, cpuTurn_of_unmarked hs.1 hs.2] at h
  cases h
  split <;> exact Beside.refl _

/-- The turns of the CPU agents, in one. -/
theorem ofCpu_beside {turn : Turn} (hturn : turn.OfCpu) {s t : State} {ts : List Turn} (hs : Unmarked s)
    (h : step { s with turns := turn :: ts } = .next t) :
    Beside (dispatch { s with turns := ts }) t ∨ t = agentIdle (dispatch { s with turns := ts }) := by
  rw [step_turn] at h
  rcases hturn with rfl | rfl | ⟨o, rfl⟩
  · exact cpuAction_beside hs h
  · exact accessAction_beside hs h
  · exact .inl (dropAction_beside hs h)

/-! ### Which agent has the turn (R318, log 22) -/

/-- A handler that does not await a status bit has the CPU, also while it waits for a lock (R367). -/
theorem dispatch_handler {s : State} (hactive : s.handlerActive = true) (h : ihAwaits s = false) :
    dispatch s = { s with cpu := .ih } := by simp [dispatch, hactive, h]

/-- A handler that awaits one leaves the CPU to SW (R275). -/
theorem dispatch_awaiting {s : State} (h : ihAwaits s = true) : dispatch s = { s with cpu := .sw } := by
  simp [dispatch, h]

/-- SW is left as it is by the turns of a handler (R318). -/
theorem handlerTurn_keeps_sw {turn : Turn} (hturn : turn.OfCpu) {s t : State} {ts : List Turn} (hs : Unmarked s)
    (hactive : s.handlerActive = true) (hawaits : ihAwaits s = false)
    (h : step { s with turns := turn :: ts } = .next t) : t.sw = s.sw := by
  have hd := dispatch_handler (s := { s with turns := ts }) hactive ((ihAwaits_withTurns s ts).trans hawaits)
  have hbeside := ofCpu_beside hturn hs h
  rw [hd] at hbeside
  rcases hbeside with ⟨-, -, hsw, -⟩ | rfl
  · exact hsw rfl
  · rfl

/-- A handler that awaits a status bit is left as it is by the turns of SW (R275). -/
theorem swTurn_keeps_handler {turn : Turn} (hturn : turn.OfCpu) {s t : State} {ts : List Turn} (hs : Unmarked s)
    (hactive : s.handlerActive = true) (hawaits : ihAwaits s = true)
    (h : step { s with turns := turn :: ts } = .next t) : t.ih = s.ih ∧ t.handlerActive = true ∧ t.cpu = .sw := by
  have hd := dispatch_awaiting (s := { s with turns := ts }) ((ihAwaits_withTurns s ts).trans hawaits)
  have hbeside := ofCpu_beside hturn hs h
  rw [hd] at hbeside
  rcases hbeside with ⟨hcpu, hkept, -, hih⟩ | rfl
  · exact ⟨hih rfl, hkept.trans hactive, hcpu⟩
  · exact ⟨rfl, hactive, rfl⟩

/-! ### A handler begins, and ends -/

/-- A handler begins on an event that waits, and runs the next of the lists given (R315, log 22). -/
theorem beginHandler_of_event {s : State} (hs : Unmarked s) (hevent : s.hasEvent = true)
    (hactive : s.handlerActive = false) :
    beginHandler s =
      { s with
        handlerActive := true
        handlerCode := s.handlerCode.tail
        ih := { s.ih with program := s.handlerCode.headD [], current := none } } := by
  obtain ⟨hf, hr⟩ := hs
  simp [beginHandler, hevent, hactive, hf, hr]

/-- None begins without an event (R317), nor inside another (R318). -/
theorem beginHandler_of_not {s : State} (h : s.hasEvent = false ∨ s.handlerActive = true) : beginHandler s = s := by
  rcases h with h | h <;> simp [beginHandler, h]

/-- Settles O56: the turn goes to the handler unless it awaits a status bit, and a turn keeps to the side of the agent
that has it. -/
theorem handlerRunsAloneOnTheCpu : Obligations.HandlerRunsAloneOnTheCpu := by
  unfold Obligations.HandlerRunsAloneOnTheCpu
  refine fun s ts hs =>
    ⟨fun hevent hactive => ?begins, fun h => ?stays, fun hactive hawaits turn t hturn h => ?sw,
      fun hactive hawaits turn t hturn h => ?handler, fun hactive hcurrent hprogram => ?ends⟩
  case begins =>
    rw [step_turn]
    exact congrArg Host.Outcome.next (beginHandler_of_event (s := { s with turns := ts }) hs hevent hactive)
  case stays =>
    rw [step_turn]
    exact congrArg Host.Outcome.next (beginHandler_of_not (s := { s with turns := ts }) h)
  case sw => exact handlerTurn_keeps_sw hturn hs hactive hawaits h
  case handler => exact swTurn_keeps_handler hturn hs hactive hawaits h
  case ends =>
    have hawaits : ihAwaits { s with turns := ts } = false := by simp [ihAwaits, hcurrent]
    have hd := dispatch_handler (s := { s with turns := ts }) hactive hawaits
    have hidle := cpuAction_of_idle (s := { s with turns := ts }) hs (by rw [hd]; exact ⟨hcurrent, hprogram⟩)
    rw [step_turn, turnAction, hidle, hd]
    rfl

end Sys2Proof.Machine
end

section
/-! SUPPORT. Holds on a status bit (R275): an operation that awaits a bit stays in progress, and goes on from there when
the bit is as awaited. -/

namespace Sys2Proof.Machine

open Sys2Proof

/-! ### An operation and the answers it has had -/

/-- An operation of which `p` is left in `s` comes to `q` in `s'`, and with the answers it has had by then it is taken
up again at `q`. -/
def Proceeds (p : Prog) (s : State) (q : Prog) (s' : State) : Prop :=
  ∀ i P as, feed P as = p → ∃ as', feed P as' = q ∧ run i p as s = run i q as' s'

theorem Proceeds.trans {p q r : Prog} {s t u : State} (h : Proceeds p s q t) (h' : Proceeds q t r u) :
    Proceeds p s r u := fun i P as hfeed => by
  obtain ⟨as', hfeed', hrun⟩ := h i P as hfeed
  obtain ⟨as'', hfeed'', hrun'⟩ := h' i P as' hfeed'
  exact ⟨as'', hfeed'', hrun.trans hrun'⟩

theorem Proceeds.of_done {m : State → Act} {k : Val → Prog} {s s' : State} {v : Val} (h : m s = .done s' v) :
    Proceeds (.act m k) s (k v) s' :=
  fun i _ as hfeed => ⟨as ++ [v], feed_next hfeed v, by simp [run, h]⟩

/-- An operation that proceeds to its result ends `ok`. -/
theorem Proceeds.run_ret {p : Prog} {s s' : State} {res : Result} (h : Proceeds p s (.ret res) s') (i : Instr)
    (as : List Val) {P : Prog} (hfeed : feed P as = p) : run i p as s = s'.finish res := by
  obtain ⟨as', -, hrun⟩ := h i P as hfeed
  exact hrun

theorem proceeds_readOnce {s s' : State} {l : Loc} {n : Nat} {v : Word64} (h : s.readLoc n l = .ok (v, s'))
    (k : Word64 → Prog) : Proceeds (readOnce l n k) s (k v) (s'.log .read l n v) :=
  Proceeds.of_done (v := .word v) (by simp [h])

theorem proceeds_writeOnce {s s' : State} {l : Loc} {n : Nat} {v : Word64} (h : s.writeLoc n v l = .ok s') (k : Prog) :
    Proceeds (writeOnce l n v k) s k (s'.log .write l n (v &&& maskOf (8 * n))) :=
  Proceeds.of_done (v := .unit) (by simp [h])

/-- `write_bits` of a register of 32 bits: one read and one write (R144). -/
theorem proceeds_writeBitsAt {s : State} {off : Nat} {r : Reg} {old : Word32} {put : Word32 → OpRegs}
    (h : WordReg s off r old put) {shift width : Nat} (hb : shift + width ≤ 32) (v : Word64) (k : Prog) :
    ∃ tr, Proceeds (writeBitsAt (.reg r) 4 shift width v k) s k
      { s with op := put ((writeSpan 32 shift width (old.setWidth 64) v).setWidth 32), trace := tr } := by
  unfold writeBitsAt
  rw [if_neg (by omega)]
  have hread : s.readLoc 4 (.reg r) = .ok (old.setWidth 64, s) := h.read s.trace
  have h1 := proceeds_readOnce hread fun old => writeWord (.reg r) 4 (writeSpan 32 shift width old v) k
  have h2 := proceeds_writeOnce (l := .reg r) (n := 4)
    (h.write (writeSpan 32 shift width (old.setWidth 64) v) (s.log .read (.reg r) 4 (old.setWidth 64)).trace) k
  exact ⟨_, h1.trans h2⟩

/-! ### An operation that awaits a bit -/

/-- The bit is as awaited: the read that finds it so is the step (R275). -/
theorem proceeds_await {s : State} {a : Awaited} {v : Word64} (h : Answers s a.reg v) (hv : v.getLsbD a.bit = a.value)
    (k : Prog) : ∃ tr, Proceeds (await a.reg a.bit a.value k) s k { s with trace := tr } := by
  have hread : s.readReg a.reg = .ok (v, s) := h s.trace
  exact ⟨_, Proceeds.of_done (v := .unit) (s' := s.log .read (.reg a.reg) 4 v) (by simp [hread, hv])⟩

/-- The operation in progress is `i`, which stands before the read of the bit `a`, with `k` left of it after that. -/
structure AtAwait (l : Layout) (i : Instr) (a : Awaited) (k : Prog) (op : Pending) : Prop where
  instr : op.instr = i
  awaits : op.awaits = some a
  left : feed (progOf l i) op.answers = await a.reg a.bit a.value k

/-- An operation that proceeds to a bit that is not as awaited stays in progress there. -/
theorem Proceeds.run_await {l : Layout} {i : Instr} {p k : Prog} {as : List Val} {s s' : State} {a : Awaited}
    {v : Word64} (h : Proceeds p s (await a.reg a.bit a.value k) s') (hfeed : feed (progOf l i) as = p)
    (hread : Answers s' a.reg v) (hv : v.getLsbD a.bit ≠ a.value) :
    ∃ op, AtAwait l i a k op ∧ run i p as s = s'.atTurn s'.turns (some op) := by
  obtain ⟨as', hfeed', hrun⟩ := h i _ as hfeed
  have hanswer : s'.readReg a.reg = .ok (v, s') := hread s'.trace
  refine ⟨{ instr := i, answers := as', awaits := some a }, ⟨rfl, rfl, hfeed'⟩, ?_⟩
  rw [hrun]
  simp only [await, run, hanswer, hv, if_false]
  rfl

/-- A read of a register sees nothing of the turn. -/
theorem Answers.atTurn {s : State} {r : Reg} {v : Word64} (h : Answers s r v) (ts : List Turn) (c : Option Pending) :
    Answers (s.atTurn ts c) r v := fun tr => by
  have hread := readReg_atTurn ts c { s with trace := tr } r
  rw [h tr] at hread
  exact hread

/-- There the agent holds. -/
theorem AtAwait.holding {l : Layout} {i : Instr} {a : Awaited} {k : Prog} {op : Pending} (hop : AtAwait l i a k op)
    {s : State} (hl : s.cfg.layout = l) {v : Word64} (hread : Answers s a.reg v) (hv : v.getLsbD a.bit ≠ a.value)
    (ts : List Turn) : holding (s.atTurn ts (some op)) = true := by
  have hanswer := hread.atTurn ts (some op) (s.atTurn ts (some op)).trace
  have hleft := hop.left
  rw [← hop.instr, ← hl] at hleft
  exact holding_of_feed (op := op) (on := some a) (by rw [atTurn_ctx]) hleft (by simp only [hanswer, hv, if_false])

/-- An agent alone on the CPU keeps its turn when the bit it awaits is as awaited. -/
theorem dispatch_of_met {s : State} (h : Alone s) {op : Pending} {a : Awaited} (hop : op.awaits = some a) {v : Word64}
    (hread : Answers s a.reg v) (hv : v.getLsbD a.bit = a.value) (ts : List Turn) :
    dispatch (s.atTurn ts (some op)) = s.atTurn ts (some op) := by
  have hactive : s.handlerActive = decide (s.cpu = .ih) := h
  have hanswer := hread.atTurn ts (some op) (s.atTurn ts (some op)).trace
  have hmet : a.unmet (s.atTurn ts (some op)) = false := by
    simp only [Awaited.unmet, hanswer, hv, bne_self_eq_false]
  cases hcpu : s.cpu with
  | sw => simp [dispatch, State.atTurn, hactive, hcpu]
  | ih =>
    have hih : (s.atTurn ts (some op)).ih.current = some op := by simp [State.atTurn, State.setCtx, hcpu]
    have hawaits : ihAwaits (s.atTurn ts (some op)) = false := by simp [ihAwaits, hih, hop, hmet]
    simp only [dispatch, hawaits]
    simp [State.atTurn, State.setCtx, hactive, hcpu]

/-- What is left of an operation after some answers sees no more of the turn than the operation. -/
theorem feed_blind : ∀ (p : Prog) (as : List Val), p.Blind → (feed p as).Blind
  | p, [], hp => by rwa [feed_nil]
  | .act _ k, v :: vs, hp => feed_blind (k v) vs (hp.2 v)
  | .ret _, _ :: _, _ => trivial
  | .fatal _, _ :: _, _ => trivial
  | .refuse _, _ :: _, _ => trivial

/-- The turn of an agent whose bit is as awaited takes the operation up at that bit. -/
theorem AtAwait.step {l : Layout} {i : Instr} {a : Awaited} {k : Prog} {op : Pending} (hop : AtAwait l i a k op)
    {s : State} (hs : Ready l s) {v : Word64} (hread : Answers s a.reg v) (hv : v.getLsbD a.bit = a.value)
    (ts : List Turn) :
    step (s.atTurn (.cpu :: ts) (some op)) =
      .next ((run i (await a.reg a.bit a.value k) op.answers s).withTurns ts) := by
  obtain ⟨hl, halone, hmarks⟩ := hs
  have hdispatch := dispatch_of_met halone hop.awaits hread hv ts
  have hcpu := cpuAction_of_current (s := s.atTurn ts (some op)) (op := op) hmarks (by rw [hdispatch, atTurn_ctx])
  have hblind : (await a.reg a.bit a.value k).Blind := hop.left ▸ feed_blind _ _ (progOf_blind l i)
  rw [hdispatch, resume, atTurn_layout, hl, hop.instr, hop.left, run_atTurn _ _ _ _ _ _ hblind] at hcpu
  exact step_of_turnAction_done (turn := .cpu) (ts := ts) hcpu

end Sys2Proof.Machine
end

section
/-! SUPPORT. The register steps of the controller (R334), and from them how `start_xhc` and `reset_xhc` come to their
ends (R263, R264). -/

namespace Sys2Proof.Machine

open Sys2Proof

/-! ### One bit of a register -/

theorem oneBit_getLsbD (k : Nat) {i : Nat} (hi : i < 32) : (oneBit k).getLsbD i = decide (i = k) := by
  rw [oneBit, BitVec.getLsbD_shiftLeft, BitVec.getLsbD_one]
  by_cases h : i = k
  · simp [h]
    omega
  · have : i < k ∨ i - k ≠ 0 := by omega
    rcases this with h1 | h1 <;> simp [h, h1]

/-- `write_bits` of one bit sets it, every other bit kept (R144). -/
theorem writeSpan_setBit {k : Nat} (old : Word32) :
    (writeSpan 32 k 1 (old.setWidth 64) 1).setWidth 32 = old ||| oneBit k := by
  refine BitVec.eq_of_getLsbD_eq fun i hi => ?_
  rw [writeSpan_getLsbD _ _ hi, BitVec.getLsbD_or, oneBit_getLsbD k hi]
  by_cases h : i = k
  · simp [h]
  · rw [if_neg (by omega), decide_eq_false h, Bool.or_false]

/-- Or clears it. -/
theorem writeSpan_clearBit {k : Nat} (old : Word32) :
    (writeSpan 32 k 1 (old.setWidth 64) 0).setWidth 32 = old &&& ~~~oneBit k := by
  refine BitVec.eq_of_getLsbD_eq fun i hi => ?_
  rw [writeSpan_getLsbD _ _ hi, BitVec.getLsbD_and, BitVec.getLsbD_not, oneBit_getLsbD k hi]
  by_cases h : i = k
  · simp [h]
  · rw [if_neg (by omega), decide_eq_false h]
    simp [hi]

/-! ### The register steps (R334) -/

/-- The state with another word in `USBSTS`. -/
abbrev State.withUsbsts (s : State) (w : Word32) : State := { s with op := { s.op with usbsts := w } }

/-- Nothing differs in `u` from `s` but the registers, what is the controller's own, and the record of accesses. -/
def SoftwareKept (s u : State) : Prop :=
  u = { s with
    op := u.op, hc := u.hc, stale := u.stale, supply := u.supply, hcSupply := u.hcSupply, drawn := u.drawn,
    trace := u.trace }

theorem SoftwareKept.trans {s t u : State} (h : SoftwareKept s t) (h' : SoftwareKept t u) : SoftwareKept s u := by
  unfold SoftwareKept at h'
  rw [h] at h'
  exact h'

theorem SoftwareKept.ready {s u : State} (h : SoftwareKept s u) {l : Layout} (hs : Ready l s) : Ready l u := by
  rw [h]
  exact hs

theorem draw_kept (s : State) : SoftwareKept s s.draw.2 := rfl

theorem drawSeven_kept (s : State) : SoftwareKept s (drawSeven s).2 :=
  (draw_kept s).trans <| (draw_kept _).trans <| (draw_kept _).trans <| (draw_kept _).trans <|
    (draw_kept _).trans <| (draw_kept _).trans (draw_kept _)

/-- What is drawn does not depend on the turn. -/
theorem draw_atTurn (ts : List Turn) (c : Option Pending) (s : State) :
    (s.atTurn ts c).draw = (s.draw.1, s.draw.2.atTurn ts c) := rfl

theorem drawHidden_atTurn (ts : List Turn) (c : Option Pending) (s : State) :
    (s.atTurn ts c).drawHidden = (s.drawHidden.1, s.drawHidden.2.atTurn ts c) := rfl

theorem drawSeven_atTurn (ts : List Turn) (c : Option Pending) (s : State) :
    drawSeven (s.atTurn ts c) = ((drawSeven s).1, (drawSeven s).2.atTurn ts c) := by
  simp only [drawSeven, draw_atTurn]

section

variable {s : State} (hl : StandardLayout s) (ts : List Turn) (c : Option Pending)

include hl

/-- halt: from `Stopping` the controller sets HCH. -/
theorem hcHalt_of_stopping (hrs : s.op.usbcmd.getLsbD 0 = false) (hrst : s.op.usbcmd.getLsbD 1 = false)
    (hch : s.op.usbsts.getLsbD 0 = false) :
    hcHalt s = s.withUsbsts (s.op.usbsts ||| 1) := by
  simp only [hcHalt, hl, runStop_standard, hcReset_standard, halted_standard, hrs, hrst, hch]
  rfl

theorem step_halt (hrs : s.op.usbcmd.getLsbD 0 = false) (hrst : s.op.usbcmd.getLsbD 1 = false)
    (hch : s.op.usbsts.getLsbD 0 = false) :
    step (s.atTurn (.hc .halt :: ts) c) = .next ((s.withUsbsts (s.op.usbsts ||| 1)).atTurn ts c) :=
  (step_turn (s.atTurn ts c) (.hc .halt) ts).trans
    (congrArg Host.Outcome.next (hcHalt_of_stopping (s := s.atTurn ts c) hl hrs hrst hch))

/-- run: from `Starting` it clears HCH. -/
theorem hcRun_of_starting (hrs : s.op.usbcmd.getLsbD 0 = true) (hrst : s.op.usbcmd.getLsbD 1 = false)
    (hch : s.op.usbsts.getLsbD 0 = true) :
    hcRun s = s.withUsbsts (s.op.usbsts &&& ~~~1) := by
  simp only [hcRun, hl, runStop_standard, hcReset_standard, halted_standard, hrs, hrst, hch]
  rfl

theorem step_run (hrs : s.op.usbcmd.getLsbD 0 = true) (hrst : s.op.usbcmd.getLsbD 1 = false)
    (hch : s.op.usbsts.getLsbD 0 = true) :
    step (s.atTurn (.hc .run :: ts) c) = .next ((s.withUsbsts (s.op.usbsts &&& ~~~1)).atTurn ts c) :=
  (step_turn (s.atTurn ts c) (.hc .run) ts).trans
    (congrArg Host.Outcome.next (hcRun_of_starting (s := s.atTurn ts c) hl hrs hrst hch))

omit hl in
/-- A completed reset leaves R/S and HCRST clear and HCH set (R273). -/
theorem resetRegs_bits (w : List Word64) :
    (resetRegs .standard w).usbcmd.getLsbD 0 = false ∧ (resetRegs .standard w).usbcmd.getLsbD 1 = false ∧
      (resetRegs .standard w).usbsts.getLsbD 0 = true := by
  refine ⟨?_, ?_, ?_⟩
  · have h : (~~~(oneBit Layout.standard.runStop ||| oneBit Layout.standard.hcReset)).getLsbD 0 = false := by decide
    simp only [resetRegs, BitVec.getLsbD_and, h, Bool.and_false]
  · have h : (~~~(oneBit Layout.standard.runStop ||| oneBit Layout.standard.hcReset)).getLsbD 1 = false := by decide
    simp only [resetRegs, BitVec.getLsbD_and, h, Bool.and_false]
  · have h : (oneBit Layout.standard.halted).getLsbD 0 = true := by decide
    simp only [resetRegs, BitVec.getLsbD_or, h, Bool.or_true]

/-- The state after a controller reset (R334, R344, R346). -/
def State.afterReset (s : State) : State :=
  { (drawSeven s.drawHidden.2).2 with
    op := resetRegs s.cfg.layout (drawSeven s.drawHidden.2).1
    hc := { s.drawHidden.1 with held := [], known := [] }
    stale := [] }

omit hl in
theorem afterReset_kept (s : State) : SoftwareKept s s.afterReset := by
  have hhidden : SoftwareKept s s.drawHidden.2 := rfl
  have hwords := hhidden.trans (drawSeven_kept s.drawHidden.2)
  exact hwords.trans rfl

theorem afterReset_bits :
    s.afterReset.op.usbcmd.getLsbD 0 = false ∧ s.afterReset.op.usbcmd.getLsbD 1 = false ∧
      s.afterReset.op.usbsts.getLsbD 0 = true := by
  rw [State.afterReset, hl]
  exact resetRegs_bits _

/-- reset-complete, where HCRST is set. -/
theorem step_resetComplete (hrst : s.op.usbcmd.getLsbD 1 = true) :
    step (s.atTurn (.hc .resetComplete :: ts) c) = .next (s.afterReset.atTurn ts c) := by
  have hreset : hcReset (s.atTurn ts c).cfg.layout (s.atTurn ts c).op.usbcmd = true := by
    rw [atTurn_layout, hl]
    exact hrst
  have hcomplete : hcResetComplete (s.atTurn ts c) = s.afterReset.atTurn ts c := by
    rw [hcResetComplete, if_pos hreset]
    simp only [drawHidden_atTurn, drawSeven_atTurn, State.afterReset]
    generalize drawSeven s.drawHidden.2 = d
    rfl
  exact (step_turn (s.atTurn ts c) (.hc .resetComplete) ts).trans (congrArg Host.Outcome.next hcomplete)

end

/-! ### Starting the controller (R264) -/

/-- `USBCMD` answers what it holds. -/
theorem answers_usbcmd (s : State) : Answers s .usbcmd (s.op.usbcmd.setWidth 64) := fun _ => rfl

/-- So does `USBSTS` (log 18). -/
theorem answers_usbsts (s : State) : Answers s .usbsts (s.op.usbsts.setWidth 64) := fun _ => rfl

/-- The state with another word in `USBCMD` and another record of accesses. -/
abbrev State.withUsbcmd (s : State) (w : Word32) (tr : List Access) : State :=
  { s with op := { s.op with usbcmd := w }, trace := tr }

/-- HCH to become `b`. -/
abbrev haltedIs (b : Bool) : Awaited := { reg := .usbsts, bit := 0, value := b }

/-- HCRST to be cleared. -/
abbrev resetDone : Awaited := { reg := .usbcmd, bit := 1, value := false }

theorem proceeds_setBit {s : State} (hl : StandardLayout s) {bit : Nat} (hb : bit < 32) (k : Prog) :
    ∃ tr, Proceeds (writeBitsAt (.reg .usbcmd) 4 bit 1 1 k) s k (s.withUsbcmd (s.op.usbcmd ||| oneBit bit) tr) := by
  rw [← writeSpan_setBit]
  exact proceeds_writeBitsAt (wordReg_usbcmd hl) (by omega) 1 k

theorem proceeds_clearBit {s : State} (hl : StandardLayout s) {bit : Nat} (hb : bit < 32) (k : Prog) :
    ∃ tr, Proceeds (writeBitsAt (.reg .usbcmd) 4 bit 1 0 k) s k (s.withUsbcmd (s.op.usbcmd &&& ~~~oneBit bit) tr) := by
  rw [← writeSpan_clearBit]
  exact proceeds_writeBitsAt (wordReg_usbcmd hl) (by omega) 0 k

/-- `start_xhc` sets run/stop, and comes to its wait for HCH to clear. -/
theorem proceeds_startXhc {s : State} (hl : StandardLayout s) :
    ∃ tr, Proceeds (progOf .standard .startXhc) s (await .usbsts 0 false (.ret .unit))
      (s.withUsbcmd (s.op.usbcmd ||| 1) tr) :=
  proceeds_setBit hl (bit := 0) (by decide) _

theorem exec_startXhc {s : State} (hs : Unmarked s) (hl : StandardLayout s) :
    exec .startXhc s = .next (run .startXhc (progOf .standard .startXhc) [] s) := by
  rw [← hl]
  exact runOp_unmarked hs.1 hs.2 .startXhc _

/-- HCH is clear: the wait ends. -/
theorem run_startXhc_awaited {s : State} (hch : s.op.usbsts.getLsbD 0 = false) {as : List Val}
    (hleft : feed (progOf .standard .startXhc) as = await .usbsts 0 false (.ret .unit)) :
    ∃ tr, run .startXhc (await .usbsts 0 false (.ret .unit)) as s = { s.finish .unit with trace := tr } := by
  obtain ⟨tr, hgoes⟩ := proceeds_await (a := haltedIs false) (answers_usbsts s) (by simpa using hch) (.ret .unit)
  exact ⟨tr, hgoes.run_ret _ _ hleft⟩

section

variable {s : State} (hl : StandardLayout s)

include hl

/-! The named states of R270 that the two operations pass, by their three bits. -/

theorem lifecycle_starting (hrs : s.op.usbcmd.getLsbD 0 = true) (hrst : s.op.usbcmd.getLsbD 1 = false)
    (hch : s.op.usbsts.getLsbD 0 = true) : s.lifecycle = .starting := by
  simp only [State.lifecycle, lifecycle, hl, runStop_standard, hcReset_standard, halted_standard, hrs, hrst, hch]

theorem lifecycle_running (hrs : s.op.usbcmd.getLsbD 0 = true) (hrst : s.op.usbcmd.getLsbD 1 = false)
    (hch : s.op.usbsts.getLsbD 0 = false) : s.lifecycle = .running := by
  simp only [State.lifecycle, lifecycle, hl, runStop_standard, hcReset_standard, halted_standard, hrs, hrst, hch]

theorem lifecycle_halted (hrs : s.op.usbcmd.getLsbD 0 = false) (hrst : s.op.usbcmd.getLsbD 1 = false)
    (hch : s.op.usbsts.getLsbD 0 = true) : s.lifecycle = .halted := by
  simp only [State.lifecycle, lifecycle, hl, runStop_standard, hcReset_standard, halted_standard, hrs, hrst, hch]

end

/-- After the run step the wait of `start_xhc` ends, and the controller runs (R334). -/
theorem startXhc_ends {s : State} (hs : Ready .standard s) {op : Pending}
    (hop : AtAwait .standard .startXhc (haltedIs false) (.ret .unit) op) (hrs : s.op.usbcmd.getLsbD 0 = true)
    (hrst : s.op.usbcmd.getLsbD 1 = false) (hch : s.op.usbsts.getLsbD 0 = true) :
    ∃ u, core.run 2 (s.atTurn [.hc .run, .cpu] (some op)) = .next u ∧ u.lifecycle = .running ∧
      u = { s.finish .unit with
        op := { s.op with usbsts := s.op.usbsts &&& ~~~1 }, turns := [], trace := u.trace } := by
  have hl : StandardLayout s := hs.1
  have hclear : (s.op.usbsts &&& ~~~1).getLsbD 0 = false := by simp
  have hrun := step_run hl [.cpu] (some op) hrs hrst hch
  have hcpu := hop.step (s := s.withUsbsts (s.op.usbsts &&& ~~~1)) hs (answers_usbsts _) (by simp) []
  obtain ⟨tr, hend⟩ := run_startXhc_awaited (s := s.withUsbsts _) hclear hop.left
  rw [hend] at hcpu
  exact ⟨_, (core_run_succ hrun).trans (core_run_succ hcpu),
    lifecycle_running (s := s.withUsbsts _) hl hrs hrst hclear, rfl⟩

/-- Settles O39: run/stop is set, and the wait for HCH ends at once, or after the run step. -/
theorem startXhcRunsTheController : Obligations.StartXhcRunsTheController := by
  unfold Obligations.StartXhcRunsTheController
  intro s hs hl asked
  obtain ⟨tr, hstart⟩ := proceeds_startXhc hl
  rw [exec_startXhc hs hl]
  refine ⟨fun hch => ?running, fun hch => ?halted⟩
  case running =>
    obtain ⟨tr', hgoes⟩ := proceeds_await (s := s.withUsbcmd asked.usbcmd tr) (a := haltedIs false) (answers_usbsts _)
      (by simpa using hch) (.ret .unit)
    exact ⟨_, congrArg _ ((hstart.trans hgoes).run_ret _ _ (feed_nil _)), rfl⟩
  case halted =>
    have hunmet : (s.op.usbsts.setWidth 64 : Word64).getLsbD 0 ≠ false := by simpa using hch
    obtain ⟨op, hop, hrun⟩ := Proceeds.run_await (a := haltedIs false) hstart (feed_nil _) (answers_usbsts _) hunmet
    have hholds := hop.holding (s := s.withUsbcmd asked.usbcmd tr) hl (answers_usbsts _) hunmet s.turns
    refine ⟨_, congrArg _ hrun, hholds, by rw [atTurn_ctx]; rfl, fun hrst => ?hrst⟩
    have hasked : asked.usbcmd.getLsbD 0 = true := by simp [asked]
    have hkept : asked.usbcmd.getLsbD 1 = false := by simpa [asked] using hrst
    refine ⟨lifecycle_starting (s := s.withUsbcmd asked.usbcmd tr) hl hasked hkept hch, fun halone => ?_⟩
    exact startXhc_ends (s := s.withUsbcmd asked.usbcmd tr) ⟨hl, halone, hs⟩ hop hasked hkept hch

/-! ### Resetting the controller (R263) -/

/-- What `reset_xhc` does once the controller is halted: set HC-reset, and wait until the controller clears it. -/
abbrev resetRest : Prog := writeBitsAt (.reg .usbcmd) 4 1 1 1 (await .usbcmd 1 false (.ret .unit))

/-- `reset_xhc` clears run/stop, and comes to its wait for HCH. -/
theorem proceeds_resetXhc {s : State} (hl : StandardLayout s) :
    ∃ tr, Proceeds (progOf .standard .resetXhc) s (await .usbsts 0 true resetRest)
      (s.withUsbcmd (s.op.usbcmd &&& ~~~1) tr) :=
  proceeds_clearBit hl (bit := 0) (by decide) _

/-- Where HCH is set it sets HC-reset, and comes to its wait for the controller to clear it. -/
theorem proceeds_resetRest {s : State} (hl : StandardLayout s) (hch : s.op.usbsts.getLsbD 0 = true) :
    ∃ tr, Proceeds (await .usbsts 0 true resetRest) s (await .usbcmd 1 false (.ret .unit))
      (s.withUsbcmd (s.op.usbcmd ||| 2) tr) := by
  obtain ⟨tr, hawait⟩ := proceeds_await (a := haltedIs true) (answers_usbsts s) (by simpa using hch) resetRest
  obtain ⟨tr', hset⟩ := proceeds_setBit (s := { s with trace := tr }) hl (bit := 1) (by decide)
    (await .usbcmd 1 false (.ret .unit))
  exact ⟨tr', hawait.trans hset⟩

theorem exec_resetXhc {s : State} (hs : Unmarked s) (hl : StandardLayout s) :
    exec .resetXhc s = .next (run .resetXhc (progOf .standard .resetXhc) [] s) := by
  rw [← hl]
  exact runOp_unmarked hs.1 hs.2 .resetXhc _

/-- `reset_xhc` stands at its wait for HCH. -/
abbrev AwaitsHalt (op : Pending) : Prop := AtAwait .standard .resetXhc (haltedIs true) resetRest op

/-- `reset_xhc` stands at its wait for HCRST to be cleared. -/
abbrev AwaitsReset (op : Pending) : Prop := AtAwait .standard .resetXhc resetDone (.ret .unit) op

/-- A controller that is not halted: the agent holds at the wait for HCH. -/
theorem exec_resetXhc_of_not_halted {s : State} (hs : Unmarked s) (hl : StandardLayout s)
    (hch : s.op.usbsts.getLsbD 0 = false) :
    ∃ op tr, AwaitsHalt op ∧ exec .resetXhc s =
      .next ((s.withUsbcmd (s.op.usbcmd &&& ~~~1) tr).atTurn s.turns (some op)) := by
  obtain ⟨tr, hstop⟩ := proceeds_resetXhc hl
  obtain ⟨op, hop, hrun⟩ := Proceeds.run_await (a := haltedIs true) hstop (feed_nil _) (answers_usbsts _)
    (by simpa using hch)
  exact ⟨op, tr, hop, (exec_resetXhc hs hl).trans (congrArg _ hrun)⟩

/-- A halted one: the agent holds at the wait for HCRST. -/
theorem exec_resetXhc_of_halted {s : State} (hs : Unmarked s) (hl : StandardLayout s)
    (hch : s.op.usbsts.getLsbD 0 = true) :
    ∃ op tr, AwaitsReset op ∧ exec .resetXhc s =
      .next ((s.withUsbcmd ((s.op.usbcmd &&& ~~~1) ||| 2) tr).atTurn s.turns (some op)) := by
  obtain ⟨tr, hstop⟩ := proceeds_resetXhc hl
  obtain ⟨tr', hrest⟩ := proceeds_resetRest (s := s.withUsbcmd (s.op.usbcmd &&& ~~~1) tr) hl hch
  obtain ⟨op, hop, hrun⟩ := Proceeds.run_await (a := resetDone) (hstop.trans hrest) (feed_nil _) (answers_usbcmd _)
    (by simp)
  exact ⟨op, tr', hop, (exec_resetXhc hs hl).trans (congrArg _ hrun)⟩

/-- `reset_xhc`, begun in `s`, has ended in `u`, and no address of a dropped block is held any more (R346). -/
def ResetFrom (s u : State) : Prop :=
  u = { s.finish .unit with
    op := u.op, hc := u.hc, stale := [], turns := [], supply := u.supply, hcSupply := u.hcSupply, drawn := u.drawn,
    trace := u.trace }

theorem SoftwareKept.resetFrom {s v u : State} (h : SoftwareKept s v) (hu : ResetFrom v u) : ResetFrom s u := by
  unfold ResetFrom at hu
  rw [h] at hu
  exact hu

theorem SoftwareKept.resetFrom_finish {s v : State} (h : SoftwareKept s v) (hstale : v.stale = []) (tr : List Access) :
    ResetFrom s (State.withTurns [] { v.finish .unit with trace := tr }) := by
  unfold ResetFrom
  rw [h, hstale]
  rfl

/-- The controller completes its reset, and the operation ends (R273, R334). -/
theorem resetXhc_ends {s : State} (hs : Ready .standard s) {op : Pending} (hop : AwaitsReset op)
    (hrst : s.op.usbcmd.getLsbD 1 = true) :
    ∃ u, core.run 2 (s.atTurn [.hc .resetComplete, .cpu] (some op)) = .next u ∧ u.lifecycle = .halted ∧
      ResetFrom s u := by
  have hl : StandardLayout s := hs.1
  have hkept := afterReset_kept s
  have hready := hkept.ready hs
  obtain ⟨hrs', hrst', hch'⟩ := afterReset_bits hl
  have hmet : (s.afterReset.op.usbcmd.setWidth 64 : Word64).getLsbD 1 = false := by simpa using hrst'
  obtain ⟨tr, hgoes⟩ := proceeds_await (a := resetDone) (answers_usbcmd s.afterReset) hmet (.ret .unit)
  have hcpu := hop.step hready (answers_usbcmd _) hmet []
  rw [hgoes.run_ret _ _ hop.left] at hcpu
  exact ⟨_, (core_run_succ (step_resetComplete hl [.cpu] (some op) hrst)).trans (core_run_succ hcpu),
    lifecycle_halted (s := s.afterReset) hready.1 hrs' hrst' hch', hkept.resetFrom_finish rfl tr⟩

/-- The controller halts by the step `h`; then the operation asks for the reset, and ends as above. -/
theorem resetXhc_ends_of_stopped {s v : State} (hs : Ready .standard s) {op : Pending} (hop : AwaitsHalt op)
    {h : HcStep} (hstep : ∀ ts c, step (s.atTurn (.hc h :: ts) c) = .next (v.atTurn ts c)) (hkept : SoftwareKept s v)
    (hch : v.op.usbsts.getLsbD 0 = true) :
    ∃ u, core.run 4 (s.atTurn [.hc h, .cpu, .hc .resetComplete, .cpu] (some op)) = .next u ∧
      u.lifecycle = .halted ∧ ResetFrom s u := by
  have hready := hkept.ready hs
  have hmet : (v.op.usbsts.setWidth 64 : Word64).getLsbD 0 = true := by simpa using hch
  obtain ⟨tr, hrest⟩ := proceeds_resetRest hready.1 hch
  obtain ⟨op', hop', hrun⟩ := Proceeds.run_await (a := resetDone) hrest hop.left (answers_usbcmd _) (by simp)
  have hcpu := hop.step hready (answers_usbsts v) hmet [.hc .resetComplete, .cpu]
  rw [hrun] at hcpu
  have hasked : SoftwareKept v (v.withUsbcmd (v.op.usbcmd ||| 2) tr) := rfl
  obtain ⟨u, hends, hhalted, hu⟩ := resetXhc_ends (hasked.ready hready) hop' (by simp)
  exact ⟨u, (core_run_succ (hstep _ _)).trans ((core_run_succ hcpu).trans hends), hhalted,
    hkept.resetFrom (hasked.resetFrom hu)⟩

/-- Where a reset was asked for before, its completion halts the controller. -/
theorem resetXhc_ends_of_resetting {s : State} (hs : Ready .standard s) {op : Pending} (hop : AwaitsHalt op)
    (hrst : s.op.usbcmd.getLsbD 1 = true) :
    ∃ u, core.run 4 (s.atTurn [.hc .resetComplete, .cpu, .hc .resetComplete, .cpu] (some op)) = .next u ∧
      u.lifecycle = .halted ∧ ResetFrom s u := by
  obtain ⟨-, -, hch⟩ := afterReset_bits hs.1
  exact resetXhc_ends_of_stopped hs hop (fun ts c => step_resetComplete hs.1 ts c hrst) (afterReset_kept s) hch

/-- Else the halt step does (R271). -/
theorem resetXhc_ends_of_stopping {s : State} (hs : Ready .standard s) {op : Pending} (hop : AwaitsHalt op)
    (hrs : s.op.usbcmd.getLsbD 0 = false) (hrst : s.op.usbcmd.getLsbD 1 = false)
    (hch : s.op.usbsts.getLsbD 0 = false) :
    ∃ u, core.run 4 (s.atTurn [.hc .halt, .cpu, .hc .resetComplete, .cpu] (some op)) = .next u ∧
      u.lifecycle = .halted ∧ ResetFrom s u :=
  resetXhc_ends_of_stopped (v := s.withUsbsts (s.op.usbsts ||| 1)) hs hop
    (fun ts c => step_halt hs.1 ts c hrs hrst hch) rfl (by simp)

/-- From any register state the controller's steps lift the holds (R263, R334). -/
theorem resetXhc_runs {s : State} (hs : Ready .standard s) :
    let stopping : List Turn :=
      if s.op.usbsts.getLsbD 0 then []
      else if s.op.usbcmd.getLsbD 1 then [.hc .resetComplete, .cpu]
      else [.hc .halt, .cpu]
    let turns := stopping ++ [.hc .resetComplete, .cpu]
    ∃ t u, exec .resetXhc s = .next t ∧ core.run turns.length { t with turns := turns } = .next u ∧
      u.lifecycle = .halted ∧ ResetFrom s u := by
  have ⟨hl, _, hmarks⟩ := hs
  have hkept (w : Word32) (tr : List Access) : SoftwareKept s (s.withUsbcmd w tr) := rfl
  cases hch : s.op.usbsts.getLsbD 0 with
  | true =>
    obtain ⟨op, tr, hop, hexec⟩ := exec_resetXhc_of_halted hmarks hl hch
    have hasked : ((s.op.usbcmd &&& ~~~1) ||| 2).getLsbD 1 = true := by simp
    obtain ⟨u, hends, hhalted, hu⟩ := resetXhc_ends (s := s.withUsbcmd _ tr) hs hop hasked
    exact ⟨_, u, hexec, hends, hhalted, (hkept _ tr).resetFrom hu⟩
  | false =>
    obtain ⟨op, tr, hop, hexec⟩ := exec_resetXhc_of_not_halted hmarks hl hch
    have hstopped : (s.op.usbcmd &&& ~~~1).getLsbD 0 = false := by simp
    have hsame : (s.op.usbcmd &&& ~~~1).getLsbD 1 = s.op.usbcmd.getLsbD 1 := by simp
    cases hrst : s.op.usbcmd.getLsbD 1 with
    | true =>
      obtain ⟨u, hends, hhalted, hu⟩ := resetXhc_ends_of_resetting (s := s.withUsbcmd _ tr) hs hop (hsame.trans hrst)
      exact ⟨_, u, hexec, hends, hhalted, (hkept _ tr).resetFrom hu⟩
    | false =>
      obtain ⟨u, hends, hhalted, hu⟩ :=
        resetXhc_ends_of_stopping (s := s.withUsbcmd _ tr) hs hop hstopped (hsame.trans hrst) hch
      exact ⟨_, u, hexec, hends, hhalted, (hkept _ tr).resetFrom hu⟩

/-- Settles O40: the operation holds at the wait for HCH, or at that for HCRST; the halt step, or a reset that was asked
for before, lifts the first hold, and the completed reset the second. -/
theorem resetXhcResetsTheController : Obligations.ResetXhcResetsTheController := by
  unfold Obligations.ResetXhcResetsTheController
  intro s hs hl
  refine ⟨fun hch => ?stops, fun hch => ?asks, fun halone => resetXhc_runs ⟨hl, halone, hs⟩⟩
  case stops =>
    obtain ⟨op, tr, hop, hexec⟩ := exec_resetXhc_of_not_halted hs hl hch
    exact ⟨_, hexec, hop.holding (s := s.withUsbcmd _ tr) hl (answers_usbsts _) (by simpa using hch) _,
      by rw [atTurn_ctx]; rfl⟩
  case asks =>
    obtain ⟨op, tr, hop, hexec⟩ := exec_resetXhc_of_halted hs hl hch
    exact ⟨_, hexec, hop.holding (s := s.withUsbcmd _ tr) hl (answers_usbcmd _) (by simp) _, by rw [atTurn_ctx]; rfl⟩

end Sys2Proof.Machine
end

section
/-! SUPPORT. `Pinned::new` and the constructors that allocate (R290 to R296; log 14, 15): what an admissible answer of the
allocator gives, and that the allocator's declining is fatal before anything is done. -/

namespace Sys2Proof.Machine

open Sys2Proof

/-! ### The allocator's answer (R290) -/

/-- An admissible answer is aligned, inside the 64-bit space, and apart from every live allocation. -/
theorem block_of_admissible {s : State} {size align : Nat} {p : Addr} (h : admissible s size align p = true) :
    p.toNat % align = 0 ∧ p.toNat + size ≤ 2 ^ 64 ∧
      ∀ l ∈ s.allocs, p.toNat + size ≤ l.base.toNat ∨ l.base.toNat + l.size ≤ p.toNat := by
  simp only [admissible, Bool.and_eq_true, decide_eq_true_eq, List.all_eq_true, apart, Bool.or_eq_true] at h
  obtain ⟨⟨⟨⟨⟨halign, hfits⟩, hallocs⟩, -⟩, -⟩, -⟩ := h
  exact ⟨halign, hfits, hallocs⟩

/-- The allocator declines (R296, log 15). -/
theorem comes_allocate_of_declined {size align : Nat} {s : State} (h : admissible s size align s.draw.1 = false)
    (kind : AllocKind) (k : Addr → Prog) : Comes (allocate size align kind k) s (.fatal .dmaAlloc) s :=
  Comes.of_fatal (by simp [h])

/-! ### A new bare buffer (R290, R293) -/

/-- The alignment of a block: at least a page if it is shared with the controller (R293). -/
def pinnedAlign (align : Nat) (shared : Bool) : Nat := if shared then max align Config.page else align

theorem installPinned_finish (k : Nat) (p : Addr) (size : Nat) (r : Result) (s : State) :
    (installPinned k p size s).finish r =
      { freeAllocs (ownedBlocks (.pinned k) s) (s.finish r) with
        pinned := putAt s.pinned k { phys := p, size := size } } := by
  rw [freeAllocs_finish]
  rfl

section

variable {s : State} (hs : Unmarked s) {k size align : Nat} (hk : k ≤ s.pinned.length) (hsize : 0 < size)
  (halign : 0 < align) {shared : Bool}

include hk hsize halign

/-- An operand in its range, at a place for a buffer, is asked of the allocator. -/
theorem comes_pinnedNew :
    Comes (progPinnedNew k size align shared) s
      (allocate size (pinnedAlign align shared) .other fun p =>
        update (installPinned k p size) (.ret (.region p size))) s :=
  (comes_needs (by simp [hsize, halign]) _ _ s).trans (comes_require (decide_eq_true hk) _ _)

include hs

theorem exec_pinnedNew (h : admissible s size (pinnedAlign align shared) s.draw.1 = true) :
    exec (.pinnedNew k size align shared) s =
      .next ((installPinned k s.draw.1 size (s.withBlock size .other)).finish (.region s.draw.1 size)) :=
  runOp_ret hs.1 hs.2
    (((comes_pinnedNew hk hsize halign).trans (comes_allocate_of_admissible h .other _)).trans (comes_update _ _ _)) _

theorem exec_pinnedNew_declined (h : admissible s size (pinnedAlign align shared) s.draw.1 = false) :
    exec (.pinnedNew k size align shared) s = .next (raiseFatal .dmaAlloc s) :=
  runOp_fatal hs.1 hs.2 ((comes_pinnedNew hk hsize halign).trans (comes_allocate_of_declined h .other _)) _

end

/-! ### The other constructors (R296) -/

section

variable {s : State} (hs : Unmarked s)

include hs

theorem exec_trbRingNew_declined {place : RingPlace} (hplace : placeOk place s = true)
    (h : admissible s 256 4096 s.draw.1 = false) :
    exec (.trbRingNew place) s = .next (raiseFatal .dmaAlloc s) :=
  runOp_fatal hs.1 hs.2 ((comes_require hplace _ _).trans (comes_allocate_of_declined h .ring _)) _

theorem exec_commandRingNew_declined (h : admissible s 256 4096 s.draw.1 = false) :
    exec .commandRingNew s = .next (raiseFatal .dmaAlloc s) :=
  runOp_fatal hs.1 hs.2 (comes_allocate_of_declined h .ring _) _

/-- The block of a Transfer Ring's slots is asked for first (R226). -/
theorem exec_transferRingNew_declined {k : Nat} (hk : k ≤ s.transferRings.length) (hlen : s.cfg.trTransferLen ≤ 4096)
    (h : admissible s 256 4096 s.draw.1 = false) :
    exec (.transferRingNew k) s = .next (raiseFatal .dmaAlloc s) := by
  have hlength := comes_needs (decide_eq_true hlen) .transferLen
  have hchecked : Comes (progTransferRingNew k) s _ s :=
    ((comes_getParams _ s).trans (hlength _ s)).trans (comes_require (decide_eq_true hk) _ _)
  exact runOp_fatal hs.1 hs.2 (hchecked.trans (comes_allocate_of_declined h .ring _)) _

theorem exec_dcbaaNew_declined (h : admissible s 2048 4096 s.draw.1 = false) :
    exec .dcbaaNew s = .next (raiseFatal .dmaAlloc s) :=
  runOp_fatal hs.1 hs.2 (comes_allocate_of_declined h .dcbaa _) _

end

/-- Settles O44: an admissible answer becomes a zeroed block and then the buffer takes its place; where the allocator
declines, each constructor has come to its first allocation and done nothing. -/
theorem pinnedNewAllocatesOrIsFatal : Obligations.PinnedNewAllocatesOrIsFatal := by
  unfold Obligations.PinnedNewAllocatesOrIsFatal
  refine fun k size align shared s hs => ⟨fun hk hsize halign hm h => ?makes,
    fun hk hsize halign h => exec_pinnedNew_declined hs hk hsize halign h,
    fun h => ⟨fun hk => exec_trbRingNew_declined hs (decide_eq_true hk) h, exec_trbRingNew_declined hs rfl h,
      exec_commandRingNew_declined hs h, fun hk hlen => exec_transferRingNew_declined hs hk hlen h⟩,
    fun h => exec_dcbaaNew_declined hs h⟩
  case makes =>
    obtain ⟨haligned, hfits, hapart⟩ := block_of_admissible h
    obtain ⟨houtside, hzeroed⟩ := zeroed_clear hm s.draw.1 size
    refine ⟨haligned, hfits, hapart, _, exec_pinnedNew hs hk hsize halign h, houtside, hzeroed, ?_⟩
    rw [installPinned_finish]
    rfl

end Sys2Proof.Machine
end

section
/-! SUPPORT. What a step of the controller changes, and where it writes (R295, R335, R337): every step but the execution of
a transfer TRB and the post step leaves memory and the Event Ring as they are. -/

namespace Sys2Proof.Machine

open Sys2Proof

/-! ### Bytes the controller may write (R335, R337) -/

/-- A byte of two live allocations is of one and the same (R290). -/
theorem alloc_eq_of_has {s : State} (h : s.Inv) {l l' : Alloc} (hl : l ∈ s.allocs) (hl' : l' ∈ s.allocs) {x : Nat}
    (hx : l.has x = true) (hx' : l'.has x = true) : l = l' := by
  obtain ⟨-, -, -, hapart, -, -⟩ := h
  have hsymm : Std.Symm fun a b : Alloc => apart a.base.toNat a.size b.base.toNat b.size = true :=
    ⟨fun a b hab => (apart_comm _ _ _ _).trans hab⟩
  by_contra hne
  have hdisjoint := hapart.forall hl hl' hne
  simp only [apart, Bool.or_eq_true, decide_eq_true_eq] at hdisjoint
  simp only [Alloc.has, Bool.and_eq_true, decide_eq_true_eq] at hx hx'
  omega

/-- A byte the controller may write belongs to no ring and not to the DCBAA, unless it may hold its address from a dropped
owner. -/
theorem protectedByte_of_dataByte {s : State} (h : s.Inv) {p : Addr} {x : Nat} (hx : dataByte s p x = true) :
    protectedByte s x = false := by
  unfold dataByte at hx
  rcases Bool.or_eq_true_iff.1 hx with hstale | hlive
  · simp [protectedByte, hstale]
  · obtain ⟨l, hl, hbyte⟩ := List.any_eq_true.1 hlive
    obtain ⟨hhas, hkind⟩ := Bool.and_eq_true_iff.1 hbyte
    have hnone : (s.allocs.any fun l => l.has x && (decide (l.kind = .ring) || decide (l.kind = .dcbaa))) = false := by
      refine List.any_eq_false.2 fun l' hl' hshared => ?_
      obtain ⟨hhas', hkind'⟩ := Bool.and_eq_true_iff.1 hshared
      obtain rfl := alloc_eq_of_has h hl hl' hhas hhas'
      cases hk : l.kind <;> simp [hk] at hkind hkind'
    rw [protectedByte, hnone, Bool.false_and]

/-! ### What a step leaves as it was -/

/-- Nothing differs in `t` from `s` but the registers, what is the controller's own, and the free values. -/
def Quiet (s t : State) : Prop :=
  t = { s with
    op := t.op, hc := t.hc, stale := t.stale, serving := t.serving, supply := t.supply, hcSupply := t.hcSupply,
    drawn := t.drawn }

/-- From `s` to `t` the controller has changed memory only at addresses of which `W` holds, of the Event Ring only the
count of posted events, and of the rest no more than `Quiet` allows. -/
structure Confined (W : Nat → Prop) (s t : State) : Prop where
  frame : Quiet { s with mem := t.mem, eventRing := t.eventRing } t
  events : t.eventRing.map (fun e => { e with unread := 0 }) = s.eventRing.map (fun e => { e with unread := 0 })
  writes : ∀ x, t.mem.read x ≠ s.mem.read x → W x

theorem Quiet.refl (s : State) : Quiet s s := rfl

theorem Quiet.trans {s t u : State} (h : Quiet s t) (h' : Quiet t u) : Quiet s u := by
  unfold Quiet at h'
  rw [h] at h'
  exact h'

theorem Quiet.dataByte {s t : State} (h : Quiet s t) (hstale : t.stale = s.stale) (p : Addr) (x : Nat) :
    dataByte t p x = dataByte s p x := by
  unfold Quiet at h
  rw [hstale] at h
  rw [h]
  rfl

theorem Quiet.confined {W : Nat → Prop} {s t : State} (h : Quiet s t) : Confined W s t := by
  have hmem : t.mem = s.mem := by rw [h]
  have hevents : t.eventRing = s.eventRing := by rw [h]
  refine ⟨?_, by rw [hevents], fun x hx => absurd (by rw [hmem]) hx⟩
  rw [hmem, hevents]
  exact h

theorem Confined.mono {W W' : Nat → Prop} {s t : State} (h : Confined W s t) (hW : ∀ x, W x → W' x) :
    Confined W' s t where
  frame := h.frame
  events := h.events
  writes x hx := hW x (h.writes x hx)

/-- What follows a quiet change. -/
theorem Quiet.then {W : Nat → Prop} {s t u : State} (h : Quiet s t) (h' : Confined W t u) : Confined W s u := by
  obtain ⟨hframe, hevents, hwrites⟩ := h'
  unfold Quiet at h
  generalize t.op = op, t.hc = hc, t.stale = stale, t.serving = serving, t.supply = supply,
    t.hcSupply = hcSupply, t.drawn = drawn at h
  subst h
  exact ⟨hframe, hevents, hwrites⟩

/-- A quiet change follows. -/
theorem Confined.then {W : Nat → Prop} {s t u : State} (h : Confined W s t) (h' : Quiet t u) : Confined W s u := by
  obtain ⟨hframe, hevents, hwrites⟩ := h
  have hmem : u.mem = t.mem := by rw [h']
  have hring : u.eventRing = t.eventRing := by rw [h']
  refine ⟨?_, by rwa [hring], by rwa [hmem]⟩
  rw [hmem, hring]
  exact hframe.trans h'

/-! ### Steps that write no memory -/

theorem learnRecord_ring (r : HcRing) (x : Trb) (h : HcHidden) (sel : RingSel) :
    hcRing? (learnRecord r x h) sel = hcRing? h sel := by
  unfold learnRecord
  split
  · cases sel <;> rfl
  · rfl

/-- What is fetched to consume is a record (R103), and the rings' pointers stand where they stood. -/
theorem hcFetch_record {s u : State} {sel : RingSel} {i : Instr} (h : hcFetch s sel = some (i, u)) :
    (∃ code r, i = recordOf code r) ∧ hcRing? u.hc sel = hcRing? s.hc sel := by
  unfold hcFetch at h
  split at h
  · cases h
  · next ring hring =>
    split at h
    · cases h
    · next bytes t hfetch =>
      obtain ⟨hlen, -, hframe⟩ := fetchAt_some (fetchRing_some hfetch).2.2
      rw [decode_sixteen _ hlen] at h
      cases h
      refine ⟨⟨_, _, rfl⟩, (learnRecord_ring _ _ _ _).trans ?_⟩
      rw [hframe]

theorem draw_quiet (s : State) : Quiet s s.draw.2 := rfl

theorem enqueueEvent_quiet (t : Trb) (s : State) : Quiet s (enqueueEvent t s) := rfl

theorem moveHcRing_quiet (sel : RingSel) (r : HcRing) (s : State) : Quiet s (moveHcRing sel r s) := rfl

theorem drawSeven_quiet (s : State) : Quiet s (drawSeven s).2 :=
  (draw_quiet s).trans <| (draw_quiet _).trans <| (draw_quiet _).trans <| (draw_quiet _).trans <|
    (draw_quiet _).trans <| (draw_quiet _).trans (draw_quiet _)

theorem passHeld_quiet (h : HeldTrb) (s : State) : Quiet s (passHeld h s) := by
  rw [passHeld_frame h s]
  rfl

theorem hcHold_quiet (k : Nat) (s : State) : Quiet s (hcHold k s) := by
  obtain ⟨new, hframe⟩ := hcHold_frame k s
  rw [hframe]
  rfl

theorem hcHalt_quiet (s : State) : Quiet s (hcHalt s) := by
  unfold hcHalt
  dsimp only
  split <;> rfl

theorem hcRun_quiet (s : State) : Quiet s (hcRun s) := by
  unfold hcRun
  dsimp only
  split <;> rfl

theorem hcResetComplete_quiet (s : State) : Quiet s (hcResetComplete s) := by
  unfold hcResetComplete
  split
  · have hhidden : Quiet s s.drawHidden.2 := rfl
    exact (hhidden.trans (drawSeven_quiet s.drawHidden.2)).trans rfl
  · rfl

/-! ### Steps that write memory (R332, R333) -/

section

variable {s : State} (hm : s.mem.wf = true)

include hm

/-- The execution of a transfer TRB writes where the controller may. -/
theorem executeTransfer_confined (slot : BitVec 8) (endpoint : BitVec 5) (a : Addr) (t : Trb) {move : State → State}
    (hmove : ∀ u, Quiet u (move u)) :
    Confined (fun x => dataByte s a x = true) s (executeTransfer slot endpoint a t move s) := by
  obtain ⟨-, -, hwrites, hframe⟩ := transferData_frame t a s hm
  have hdata : Confined (fun x => dataByte s a x = true) s (transferData t a s).2 :=
    ⟨by rw [hframe]; rfl, by rw [hframe], hwrites⟩
  have hmoved := hdata.then (hmove _)
  unfold executeTransfer
  dsimp only
  split
  · exact hmoved.then ((draw_quiet _).trans (enqueueEvent_quiet _ _))
  · exact hmoved

/-- Of the records the controller consumes, only a transfer TRB brings data in. -/
theorem hcConsume_confined (sel : RingSel) (t : Trb) :
    Confined (fun x => ∃ ring, hcRing? s.hc sel = some ring ∧ dataByte s ring.p x = true) s (hcConsume sel t s) := by
  unfold hcConsume
  split
  · exact (Quiet.refl s).confined
  · next ring hring =>
    split
    · exact Quiet.confined rfl
    · split
      · exact Quiet.confined rfl
      · split
        · exact Quiet.confined rfl
        · next k =>
          split
          · exact (Quiet.refl s).confined
          · next e he =>
            have hr : hcRing? s.hc (.endpoint k) = some e.ring := by simp only [hcRing?, he, Option.map_some]
            exact (executeTransfer_confined hm _ _ _ _ (moveHcRing_quiet _ _)).mono fun x hx => ⟨e.ring, hr, hx⟩

theorem executeHeld_confined (h : HeldTrb) (t : Trb) :
    Confined (fun x => dataByte s h.addr x = true) s (executeHeld h t s) :=
  executeTransfer_confined hm _ _ _ _ (passHeld_quiet h)

/-- The post step writes one slot of the Event Ring. -/
theorem hcPost_confined (hplaced : ∀ e, s.eventRing = some e → e.ring.Placed) :
    Confined (fun x => ∃ e, s.eventRing = some e ∧ e.ring.phys.toNat ≤ x ∧ x < e.ring.phys.toNat + 256) s
      (hcPost s) := by
  unfold hcPost
  split
  · next e ev evs he hev =>
    dsimp only
    split
    · have hp : e.ring.phys.toNat + 256 ≤ 2 ^ 64 := hplaced e he
      have hslot := slotAt_toNat hp s.hc.q.isLt
      have hq := s.hc.q.isLt
      have hstored {x : Nat} (hx : ¬(e.ring.phys.toNat ≤ x ∧ x < e.ring.phys.toNat + 256)) :=
        read_putTrb_outside hm (a := slotAt e.ring.phys s.hc.q.val) (by omega)
          { ev with control := withCycle ev.control s.hc.pcs } (x := x) (by omega)
      unfold putTrb at hstored
      generalize Memory.writeWord _ (slotAt e.ring.phys s.hc.q.val + 12) 4 _ = m at hstored ⊢
      exact ⟨rfl, by rw [he]; rfl, fun x hx => ⟨e, he, by_contra fun hout => hx (hstored hout)⟩⟩
    · exact (Quiet.refl s).confined
  · exact (Quiet.refl s).confined

end

/-! ### The steps -/

/-- Where the controller's step `h` may write: a data buffer, for the record it executes, or the Event Ring. -/
def MayWrite (h : HcStep) (s : State) (x : Nat) : Prop :=
  (∃ p, dataByte s p x = true ∧
    ((∃ sel ring, h = .consume sel ∧ hcRing? s.hc sel = some ring ∧ p = ring.p) ∨
      ∃ j r, h = .complete j ∧ s.hc.held[j]? = some r ∧ p = r.addr)) ∨
  h = .post ∧ ∃ e, s.eventRing = some e ∧ e.ring.phys.toNat ≤ x ∧ x < e.ring.phys.toNat + 256

section

variable {s t : State} {ts : List Turn} (hm : s.mem.wf = true)

include hm

theorem step_consume_confined {sel : RingSel} (h : step { s with turns := .hc (.consume sel) :: ts } = .next t) :
    Confined (MayWrite (.consume sel) s) { s with turns := ts } t := by
  cases hf : hcFetch { s with turns := ts } sel with
  | none =>
    cases (step_consume_none hf).symm.trans h
    exact (Quiet.refl _).confined
  | some fetched =>
    obtain ⟨i, u⟩ := fetched
    obtain ⟨⟨code, r, rfl⟩, hring⟩ := hcFetch_record hf
    have hframe := hcFetch_some hf
    have hu : Quiet { s with turns := ts } { u with serving := .hc sel } := by rw [hframe]; rfl
    have hmem : u.mem.wf = true := by rw [hframe]; exact hm
    have hstale : u.stale = s.stale := by rw [hframe]
    rw [step_consume hf, exec_recordOf] at h
    cases h
    refine hu.then ((hcConsume_confined (s := { u with serving := .hc sel }) hmem sel _).mono fun x hx => ?_)
    obtain ⟨ring, hr, hbyte⟩ := hx
    exact .inl ⟨ring.p, (hu.dataByte hstale ring.p x).symm.trans hbyte, .inl ⟨sel, ring, rfl, hring.symm.trans hr, rfl⟩⟩

theorem step_complete_confined {j : Nat} (h : step { s with turns := .hc (.complete j) :: ts } = .next t) :
    Confined (MayWrite (.complete j) s) { s with turns := ts } t := by
  by_cases hrun : s.lifecycle = .running
  · cases hj : s.hc.held[j]? with
    | none =>
      cases (step_complete_none (.inl hj)).symm.trans h
      exact (Quiet.refl _).confined
    | some r =>
      rw [step_complete hj hrun, decodeTrb, exec_recordOf] at h
      cases h
      have htaken : Quiet { s with turns := ts }
          { s with turns := ts, hc := { s.hc with held := s.hc.held.eraseIdx j }, serving := .held r } := rfl
      refine htaken.then ((executeHeld_confined ?_ r _).mono fun x hx => ?_)
      · exact hm
      · exact .inl ⟨r.addr, (htaken.dataByte rfl r.addr x).symm.trans hx, .inr ⟨j, r, rfl, hj, rfl⟩⟩
  · cases (step_complete_none (.inr hrun)).symm.trans h
    exact (Quiet.refl _).confined

/-- Every step of the controller. -/
theorem step_hc_confined (hplaced : ∀ e, s.eventRing = some e → e.ring.Placed) {h : HcStep}
    (hstep : step { s with turns := .hc h :: ts } = .next t) : Confined (MayWrite h s) { s with turns := ts } t := by
  cases h with
  | consume sel => exact step_consume_confined hm hstep
  | complete j => exact step_complete_confined hm hstep
  | fetch k => cases hstep; exact (hcHold_quiet k _).confined
  | halt => cases hstep; exact (hcHalt_quiet _).confined
  | run => cases hstep; exact (hcRun_quiet _).confined
  | resetComplete => cases hstep; exact (hcResetComplete_quiet _).confined
  | post =>
    cases hstep
    exact (hcPost_confined (s := { s with turns := ts }) hm hplaced).mono fun x hx => .inr ⟨rfl, hx⟩

end

/-- Settles O53: each step is confined to what its kind may write, and no byte that holds data is a ring's or the
DCBAA's. -/
theorem controllerWritesNoRingNorDcbaa : Obligations.ControllerWritesNoRingNorDcbaa := by
  unfold Obligations.ControllerWritesNoRingNorDcbaa
  intro h s t ts hinv hplaced hstep
  obtain ⟨hframe, hevents, hwrites⟩ := step_hc_confined hinv.1 hplaced hstep
  refine ⟨hframe, hevents, fun x hx => ?_⟩
  rcases hwrites x hx with ⟨p, hbyte, hrecord⟩ | hpost
  · exact .inl ⟨p, hbyte, protectedByte_of_dataByte hinv hbyte, hrecord⟩
  · exact .inr hpost

end Sys2Proof.Machine
end

section
/-! SUPPORT. A span outside the word (R145, R309), and a CPU agent's turn that begins an operation (R329). -/

namespace Sys2Proof.Machine

open Sys2Proof

/-! ### Spans outside the word (R145, R309) -/

/-- An accessor operation whose word resolves, and that is fatal there, ends so in the state it began in. -/
theorem runOp_withWord_fatal {s : State} {w : WordRef} {u : Use} {l : Loc} {c : FatalCode} {k : Loc → Prog}
    (hs : Unmarked s) (hw : resolve s u w = .ok l) (hk : k l = .fatal c) (i : Instr) :
    runOp i (withWord w u k) s = .next (raiseFatal c s) := by
  have hcomes := comes_withWord hw k
  rw [hk] at hcomes
  exact runOp_fatal hs.1 hs.2 hcomes i

section

variable {n shift width : Nat} (h : 8 * n < shift + width)

include h

theorem readBitsAt_of_outside (l : Loc) (k : Word64 → Prog) :
    readBitsAt l n shift width k = .fatal .bitRange := if_pos h

theorem writeBitsAt_of_outside (l : Loc) (v : Word64) (k : Prog) :
    writeBitsAt l n shift width v k = .fatal .bitRange := if_pos h

end

/-- Settles O19: the test of the span comes before the accesses. -/
theorem spanOutsideTheWordIsFatal : Obligations.SpanOutsideTheWordIsFatal := by
  unfold Obligations.SpanOutsideTheWordIsFatal
  intro w l shift width v s hs hspan
  exact ⟨fun hw => runOp_withWord_fatal hs hw (readBitsAt_of_outside hspan l _) _,
    fun hw => runOp_withWord_fatal hs hw (writeBitsAt_of_outside hspan l v _) _⟩

/-! ### The next operation (R329; log 7, 22) -/

section

variable {s : State} {i : Instr} {rest : List Instr} (hs : Unmarked s) (hcurrent : (dispatch s).ctx.current = none)
  (hprogram : (dispatch s).ctx.program = i :: rest)

include hs hcurrent hprogram

/-- A turn given to the CPU begins the next operation. -/
theorem step_cpu_of_program (ts : List Turn) :
    step { s with turns := .cpu :: ts } = exec i ((takeOp rest (dispatch s)).withTurns ts) := by
  have hdispatch : dispatch (s.withTurns ts) = (dispatch s).withTurns ts := dispatch_withTurns s ts
  have hcpu := cpuAction_of_program (s := s.withTurns ts) hs
    (by rw [hdispatch]; exact hcurrent) (by rw [hdispatch]; exact hprogram)
  rw [hdispatch] at hcpu
  exact (step_turn s .cpu ts).trans (congrArg Action.outcome hcpu)

/-- So does a step when the interleaving says no more. -/
theorem step_of_no_turns (hturns : s.turns = []) : step s = exec i (takeOp rest (dispatch s)) := by
  simp only [step, nextAction, hturns, cpuAction_of_program hs hcurrent hprogram]

end

/-- Settles O54: the agent that has the turn takes the operation off its list, whatever turns are to come. -/
theorem stepRunsTheNextOperation : Obligations.StepRunsTheNextOperation := by
  unfold Obligations.StepRunsTheNextOperation
  intro s i rest ts hs d hcurrent hprogram
  exact ⟨step_cpu_of_program hs hcurrent hprogram ts, step_of_no_turns hs hcurrent hprogram⟩

end Sys2Proof.Machine
end

section
/-! SUPPORT. The post step (R333): the state after it, and when it posts. -/

namespace Sys2Proof.Machine

open Sys2Proof

/-- A record stored into a slot of a ring stands there, and every byte outside the slot reads as before. -/
theorem putTrb_slot {m : Memory} (hm : m.wf = true) {base : Addr} (hp : base.toNat + 256 ≤ 2 ^ 64) {i : Nat}
    (hi : i < 16) (t : Trb) :
    slotTrb (putTrb m (slotAt base i) t) base i = t ∧
      ∀ x, x < base.toNat + 16 * i ∨ base.toNat + 16 * i + 16 ≤ x →
        (putTrb m (slotAt base i) t).read x = m.read x := by
  have hslot := slotAt_toNat hp hi
  exact ⟨(slotTrb_putTrb hm hp hi hi t).trans (if_pos rfl),
    fun x hx => read_putTrb_outside hm (by omega) t (by omega)⟩

/-- The producer's position wraps, and its cycle state flips, behind the last slot. -/
theorem nextProducer_eq (h : HcHidden) :
    nextProducer h = { h with q := h.q + 1, pcs := if h.q.val = 15 then !h.pcs else h.pcs } := by
  simp only [nextProducer, cursor_wraps_iff]

section

variable {s : State} {e : EventRing} (he : s.eventRing = some e)

include he

/-- The post step where it is enabled: the oldest event is stored with the producer's cycle state. -/
theorem hcPost_of_room {ev : Trb} {evs : List Trb} (hev : s.hc.unposted = ev :: evs) (hrun : s.lifecycle = .running)
    (hroom : e.unread < 16) (hlive : insideLive s (slotAt e.ring.phys s.hc.q.val) 16 = true) :
    hcPost s = { s with
      mem := putTrb s.mem (slotAt e.ring.phys s.hc.q.val) { ev with control := withCycle ev.control s.hc.pcs }
      eventRing := some { e with unread := e.unread + 1 }
      hc := learn [slotAt e.ring.phys s.hc.q.val] { nextProducer s.hc with unposted := evs } } := by
  have hroom' : eventRoom e = true := decide_eq_true hroom
  simp only [hcPost, he, hev, (lifecycle_running_iff s).1 hrun, hroom', hlive, Bool.and_self, if_true]
  rfl

/-- Where no event waits, the controller does not run or the ring is full, nothing is posted. -/
theorem hcPost_of_disabled (h : s.hc.unposted = [] ∨ s.lifecycle ≠ .running ∨ 16 ≤ e.unread) : hcPost s = s := by
  rw [Ne, lifecycle_running_iff, Bool.not_eq_true] at h
  simp only [hcPost, he]
  rcases h with hnone | hstopped | hfull
  · simp only [hnone]
  · cases s.hc.unposted <;> simp [hstopped]
  · have hroom : eventRoom e = false := decide_eq_false (Nat.not_lt.2 hfull)
    cases s.hc.unposted <;> simp [hroom]

end

theorem step_post (s : State) (ts : List Turn) :
    step { s with turns := .hc .post :: ts } = .next (hcPost { s with turns := ts }) := rfl

/-- Settles O51: where the step is enabled it stores the one record, and where it is not it changes nothing. -/
theorem postStepWritesOneEvent : Obligations.PostStepWritesOneEvent := by
  unfold Obligations.PostStepWritesOneEvent
  intro e s ts he hplaced hlive
  refine ⟨fun ev evs hev hrun hroom hm => ?posts, fun h => ?disabled⟩
  case posts =>
    have hpost := hcPost_of_room (s := s.withTurns ts) he hev hrun hroom hlive
    rw [nextProducer_eq] at hpost
    obtain ⟨hstored, houtside⟩ :=
      putTrb_slot hm hplaced s.hc.q.isLt { ev with control := withCycle ev.control s.hc.pcs }
    have hstep := (step_post s ts).trans (congrArg Host.Outcome.next hpost)
    dsimp only [State.withTurns] at hstep
    generalize putTrb s.mem _ _ = m at hstored houtside hstep
    exact ⟨_, s.hc.q + 1, hstep, Fin.val_add _ _, houtside, hstored, rfl⟩
  case disabled =>
    exact (step_post s ts).trans (congrArg _ (hcPost_of_disabled (s := s.withTurns ts) he h))

end Sys2Proof.Machine
end

section
/-! SUPPORT. When each register step of the controller is enabled (R334), and that no other step of it writes a register
(R335, R344). -/

namespace Sys2Proof.Machine

open Sys2Proof

/-! ### Steps that are not enabled (R334) -/

section

variable {s : State} (hl : StandardLayout s)

include hl

theorem hcHalt_of_disabled (h : ¬(s.op.usbcmd.getLsbD 0 = false ∧ s.op.usbcmd.getLsbD 1 = false ∧
    s.op.usbsts.getLsbD 0 = false)) : hcHalt s = s := by
  simp only [hcHalt, hl, runStop_standard, hcReset_standard, halted_standard]
  exact if_neg (by simpa [and_assoc] using h)

theorem hcRun_of_disabled (h : ¬(s.op.usbcmd.getLsbD 0 = true ∧ s.op.usbcmd.getLsbD 1 = false ∧
    s.op.usbsts.getLsbD 0 = true)) : hcRun s = s := by
  simp only [hcRun, hl, runStop_standard, hcReset_standard, halted_standard]
  exact if_neg (by simpa [and_assoc] using h)

theorem hcResetComplete_of_disabled (h : s.op.usbcmd.getLsbD 1 = false) : hcResetComplete s = s := by
  rw [hcResetComplete, hl, hcReset_standard, h]
  rfl

/-! ### The completed reset (R273, R334, R344, R346) -/

theorem hcResetComplete_of_enabled (h : s.op.usbcmd.getLsbD 1 = true) : hcResetComplete s = s.afterReset := by
  rw [hcResetComplete, hl, hcReset_standard, h, State.afterReset, hl]
  rfl

theorem afterReset_lifecycle : s.afterReset.lifecycle = .halted := by
  have hkept := congrArg State.cfg (afterReset_kept s)
  have hlayout : StandardLayout s.afterReset := (congrArg Params.layout hkept).trans hl
  obtain ⟨hrs, hrst, hch⟩ := afterReset_bits hl
  exact lifecycle_halted hlayout hrs hrst hch

end

theorem afterReset_quiet (s : State) : Quiet s s.afterReset := by
  have hhidden : Quiet s s.drawHidden.2 := rfl
  exact (hhidden.trans (drawSeven_quiet s.drawHidden.2)).trans rfl

theorem afterReset_frame (s : State) :
    s.afterReset =
      { s with
        op := s.afterReset.op, hc := { s.afterReset.hc with held := [], known := [] }, stale := [],
        supply := s.afterReset.supply, hcSupply := s.afterReset.hcSupply, drawn := s.afterReset.drawn } := by
  have hserving := congrArg State.serving (afterReset_kept s)
  have hframe := afterReset_quiet s
  unfold Quiet at hframe
  rw [hserving] at hframe
  exact hframe

/-! ### The steps that write no register (R335, R344) -/

theorem receive_op : ∀ (n a : Nat) (s : State), (receive a n s).op = s.op
  | 0, _, _ => rfl
  | n + 1, a, s => receive_op n (a + 1) { s.draw.2 with mem := s.mem.write a (s.draw.1.setWidth 8) }

theorem transferData_op (t : Trb) (p : Addr) (s : State) : (transferData t p s).2.op = s.op := by
  unfold transferData
  dsimp only
  split
  · exact receive_op _ _ s.draw.2
  · rfl

theorem executeTransfer_op (slot : BitVec 8) (endpoint : BitVec 5) (a : Addr) (t : Trb) {move : State → State}
    (hmove : ∀ u, (move u).op = u.op) (s : State) : (executeTransfer slot endpoint a t move s).op = s.op := by
  have hmoved := (hmove _).trans (transferData_op t a s)
  unfold executeTransfer
  dsimp only
  split <;> exact hmoved

theorem hcConsume_op (sel : RingSel) (t : Trb) (s : State) : (hcConsume sel t s).op = s.op := by
  unfold hcConsume
  split
  · rfl
  · split
    · rfl
    · split
      · rfl
      · split
        · rfl
        · split
          · rfl
          · exact executeTransfer_op _ _ _ _ (fun u => moveHcRing_op u _ _) s

theorem passHeld_op (h : HeldTrb) (s : State) : (passHeld h s).op = s.op := by rw [passHeld_frame]

theorem executeHeld_op (h : HeldTrb) (t : Trb) (s : State) : (executeHeld h t s).op = s.op :=
  executeTransfer_op _ _ _ _ (passHeld_op h) s

theorem hcHold_op (k : Nat) (s : State) : (hcHold k s).op = s.op := by
  obtain ⟨new, hframe⟩ := hcHold_frame k s
  rw [hframe]

theorem hcPost_op (s : State) : (hcPost s).op = s.op := by
  unfold hcPost
  split
  · dsimp only
    split <;> rfl
  · rfl

section

variable {s t : State} {ts : List Turn}

theorem step_consume_op {sel : RingSel} (h : step { s with turns := .hc (.consume sel) :: ts } = .next t) :
    t.op = s.op := by
  cases hf : hcFetch { s with turns := ts } sel with
  | none =>
    cases (step_consume_none hf).symm.trans h
    rfl
  | some fetched =>
    obtain ⟨i, u⟩ := fetched
    obtain ⟨⟨code, r, rfl⟩, -⟩ := hcFetch_record hf
    have hfetch : u.op = s.op := by rw [hcFetch_some hf]
    rw [step_consume hf, exec_recordOf] at h
    cases h
    exact (hcConsume_op _ _ _).trans hfetch

theorem step_complete_op {j : Nat} (h : step { s with turns := .hc (.complete j) :: ts } = .next t) : t.op = s.op := by
  by_cases hrun : s.lifecycle = .running
  · cases hj : s.hc.held[j]? with
    | none =>
      cases (step_complete_none (.inl hj)).symm.trans h
      rfl
    | some r =>
      rw [step_complete hj hrun, decodeTrb, exec_recordOf] at h
      cases h
      exact executeHeld_op _ _ _
  · cases (step_complete_none (.inr hrun)).symm.trans h
    rfl

end

/-- Settles O52: each row's condition is the step's own test, and the other steps keep the registers. -/
theorem registerStepsOfTheController : Obligations.RegisterStepsOfTheController := by
  unfold Obligations.RegisterStepsOfTheController
  intro s ts hl after same rs hcrst hch
  have hl' : StandardLayout (s.withTurns ts) := hl
  refine ⟨fun hrs hrst hch => congrArg _ (hcHalt_of_stopping hl' hrs hrst hch),
    fun h => congrArg _ (hcHalt_of_disabled hl' h),
    fun hrs hrst hch => congrArg _ (hcRun_of_starting hl' hrs hrst hch),
    fun h => congrArg _ (hcRun_of_disabled hl' h),
    fun hrst => ⟨(s.withTurns ts).afterReset, congrArg _ (hcResetComplete_of_enabled hl' hrst),
      afterReset_lifecycle hl', afterReset_frame (s.withTurns ts)⟩,
    fun hrst => congrArg _ (hcResetComplete_of_disabled hl' hrst), ?others⟩
  case others =>
    rintro h t (rfl | ⟨sel, rfl⟩ | ⟨k, rfl | rfl⟩) hstep
    · cases hstep
      exact hcPost_op _
    · exact step_consume_op hstep
    · cases hstep
      exact hcHold_op _ _
    · exact step_complete_op hstep

end Sys2Proof.Machine
end
